-- ==== Sys2Proof/Word.lean ====
section
/-! DEFINITION. The word types of REGENC (spec/00_scope.md R13): unsigned integers of N bits. -/

namespace Sys2Proof

/-- u8: a byte of a request, a transfer or a buffer (R13). -/
abbrev Byte := BitVec 8

/-- u16: a calibration cell, an offset word, a transformed trigger pointer (R8, R13). -/
abbrev HalfWord := BitVec 16

/-- u32: FAULT_INFO, a raw pointer operand, a float pattern (R13, R14). -/
abbrev Word := BitVec 32

/-- The seventeen bytes of a relay mask (R8, R25). -/
abbrev RelayMask := Vector Byte 17

end Sys2Proof
end

