-- ==== Sys2Proof/Syntax.lean ====
section
/-! DEFINITION. The data types of REGENC's operands and the ONE inductive of its operations
(spec/30_encoding.md R62, R64, R70, R71; spec/00_scope.md R19). -/

namespace Sys2Proof

/-- The nine voltage ranges, 5 V down to 10 mV, in code order (R70). -/
inductive Range where
  | v5 | v2 | v1 | mv500 | mv200 | mv100 | mv50 | mv20 | mv10
deriving DecidableEq, Repr, Inhabited

/-- Input coupling (R70). -/
inductive Coupling where
  | ac | dc | off
deriving DecidableEq, Repr, Inhabited

/-- Trigger source (R70). -/
inductive TrigSource where
  | ch1 | ch2 | alt | ext
deriving DecidableEq, Repr, Inhabited

/-- Trigger slope (R70). -/
inductive Slope where
  | pos | neg
deriving DecidableEq, Repr, Inhabited

/-- Channel select (R70). -/
inductive ChanSel where
  | ch1 | ch2 | both
deriving DecidableEq, Repr, Inhabited

/-- Data length: SMALL is 10240 samples, LARGE is 0x80000 samples (R70, R113). -/
inductive DataLength where
  | small | large
deriving DecidableEq, Repr, Inhabited

/-- The two channels: index 0 is CH1, index 1 is CH2 (R70). -/
inductive Channel where
  | ch1 | ch2
deriving DecidableEq, Repr, Inhabited

/-- One calibration entry, the pair (min, max) of u16 (R23). -/
structure CalPair where
  min : HalfWord
  max : HalfWord
deriving DecidableEq, Repr, Inhabited

/-- The nine calibration entries of one channel, one for each range (R23, R95). -/
structure CalRow where
  v5 : CalPair
  v2 : CalPair
  v1 : CalPair
  mv500 : CalPair
  mv200 : CalPair
  mv100 : CalPair
  mv50 : CalPair
  mv20 : CalPair
  mv10 : CalPair
deriving DecidableEq, Repr, Inhabited

/-- The calibration file, 2 x 9 entries (R23). The operand of CAL_LOAD has the same shape (R64, R90). -/
structure CalFile where
  ch1 : CalRow
  ch2 : CalRow
deriving DecidableEq, Repr, Inhabited

/-- A serialized rational: a 64-bit two's-complement numerator over a 64-bit unsigned denominator (R71).
It is kept as it was sent; its value is read by the operand checks. -/
structure QOperand where
  num : BitVec 64
  den : BitVec 64
deriving DecidableEq, Repr, Inhabited

/-- The serialized InstrumentConfig of an APPLY request, field by field as sent (R64). -/
structure CfgOperand where
  r0 : Byte
  cp0 : Byte
  off0 : QOperand
  r1 : Byte
  cp1 : Byte
  off1 : QOperand
  src : Byte
  slope : Byte
  toff : QOperand
  sel : Byte
  dl : Byte
  tb : QOperand
  ta : QOperand
deriving DecidableEq, Repr, Inhabited

/-- ChannelConfig (R19). -/
structure ChannelConfig where
  range : Range
  coupling : Coupling
  offset : Rat
deriving DecidableEq, Repr, Inhabited

/-- TriggerConfig (R19). -/
structure TriggerConfig where
  source : TrigSource
  slope : Slope
  offset : Rat
deriving DecidableEq, Repr, Inhabited

/-- Q>0: a positive rational, the type of `timeBase` (R19). -/
structure PosRat where
  val : Rat := 1
  pos : 0 < val := by decide
deriving DecidableEq, Repr, Inhabited

/-- InstrumentConfig: what the register CFG holds (R19, R28). -/
structure InstrumentConfig where
  ch0 : ChannelConfig
  ch1 : ChannelConfig
  trigger : TriggerConfig
  channelSelect : ChanSel
  dataLength : DataLength
  timeBase : PosRat
  triggerAddress : Rat
deriving DecidableEq, Repr, Inhabited

/-- An operation request as it stands on the request port: OPSEL and the operand record's bytes (R36, R62). -/
structure Request where
  opsel : Byte
  operands : List Byte
deriving DecidableEq, Repr, Inhabited

/-- The 25 operations, one constructor for each row of the operation map (R62), with the operands of
R64 as they were sent: a byte outside its type is a request all the same, and the operation answers it
with BAD_OPERAND (R65). -/
inductive Instr where
  | calLoad (lv : CalFile)
  | calLookup (c r : Byte)
  | encVoltage (r0 cp0 r1 cp1 : Byte)
  | encRelays (r0 cp0 r1 cp1 src : Byte)
  | encTrigin (src slope : Byte)
  | encChannels (sel : Byte)
  | encRamlen (dl : Byte)
  | quantSamplerate (req : QOperand)
  | encTriglen (dl : Byte) (ta : QOperand)
  | encFilter
  | encOffsets (r0 : Byte) (off0 : QOperand) (r1 : Byte) (off1 : QOperand) (src : Byte) (toff : QOperand)
  | apply (cfg : CfgOperand)
  | capStart
  | capTrigen
  | capForcetrig
  | capQuerystate
  | capGetdata
  | decodeCapstate (v : Word)
  | decodeTp (p : Word)
  | unwrap (tp : HalfWord) (len : Word) (block : List Byte)
  | buildDataHeader
  | buildStoppedFrame
  | assembleFrame (p : Word) (len : Word) (block : List Byte)
  | getConfig
  | reset
deriving DecidableEq, Repr, Inhabited

end Sys2Proof
end

