-- ==== Sys2Proof/Config.lean ====
section
/-! DEFINITION. The parameters of a REGENC instance (spec/00_scope.md R9 to R12). The OPEN ones, for
which the spec takes no value, are uninterpreted constants: nothing can be proved of their values. The
ones with defaults are the fields of `Params`; the default instance is `Machine.params` of
Machine/Defaults.lean. -/

namespace Sys2Proof

/-- CAL_OVERRIDE = (ovMin, ovMax), OPEN (R12, R91; log 15). -/
opaque Config.calOverride : CalPair

/-- TB_TO_REQ, the caller's conversion from seconds per division to a seconds-per-sample request, OPEN
(R12, R120; log 15). -/
opaque Config.tbToReq : PosRat → Rat

/-- CFG_DEFAULT, the start-up configuration, OPEN (R12, R40; log 15). Any value of the type of R19, so its
`timeBase` is positive. -/
opaque Config.cfgDefault : InstrumentConfig

/-- TP_ASSEMBLE, by which the HOST joins two device fields to the 18-bit raw pointer, OPEN (R12, R185;
log 16). No operation uses it: REGENC takes the joined pointer as an operand. -/
opaque Config.tpAssemble : Nat → Nat → BitVec 18

/-- CAPSTATE_ASSEMBLE, by which the HOST takes the capture-state value from the device's response, OPEN
(R12, R176; log 16). No operation uses it. -/
opaque Config.capStateAssemble : List Byte → Word

/-- The parameters that have defaults (R9, R10, R11, R91). A layout gives the bytes of the command AFTER
byte 0, since byte 0 is the command's opcode whatever the layout (R73). -/
structure Params where
  opcVoltage : Byte
  opcTrigin : Byte
  opcChannels : Byte
  opcRamlen : Byte
  opcSamplerate : Byte
  opcTriglen : Byte
  opcFilter : Byte
  opcCapstart : Byte
  opcTrigen : Byte
  opcForcetrig : Byte
  opcQuerystate : Byte
  opcGetdata : Byte
  reqBegin : Byte
  reqRelays : Byte
  reqOffsets : Byte
  ctlValue : HalfWord
  ctlIndex : HalfWord
  epBulkOut : Byte
  layoutVoltage : Range → Coupling → Range → Coupling → List Byte
  layoutTrigin : TrigSource → Slope → List Byte
  layoutChannels : ChanSel → List Byte
  layoutRamlen : DataLength → List Byte
  layoutSamplerate : Bool → Bool → BitVec 17 → List Byte
  layoutTriglenHdr : List Byte
  filterPayload : List Byte
  layoutCapctl : List Byte
  rangeRelay : Range → Bool × Bool
  couplingRelay : Coupling → Bool
  relayPack : Bool → Bool → Bool → Bool → Bool → Bool → Bool → RelayMask
  offsetPayloadLen : Nat
  calOverrideCell : Channel × Range

end Sys2Proof
end

