-- ==== Sys2Proof/WellFormed.lean ====
section
/-! DEFINITION. Which terms of Instr stand for a request: the block of UNWRAP and ASSEMBLE_FRAME is
`Bytes[L]`, so its length is the operand L (spec/30_encoding.md R64, R68). Every other operand has the
one size its type gives it (spec/20_memory.md R52), so nothing else can be ill-formed. An operand value
outside its enumeration is a well-formed request that BAD_OPERAND answers (R65). -/

namespace Sys2Proof

/-- A block operand has as many bytes as the length field beside it says (R64). -/
def blockFits (len : Word) (block : List Byte) : Bool := block.length == len.toNat

/-- A term of Instr that a request record can carry (R64, R68). -/
def Instr.wellFormed : Instr → Bool
  | .calLoad _ => true
  | .calLookup _ _ => true
  | .encVoltage _ _ _ _ => true
  | .encRelays _ _ _ _ _ => true
  | .encTrigin _ _ => true
  | .encChannels _ => true
  | .encRamlen _ => true
  | .quantSamplerate _ => true
  | .encTriglen _ _ => true
  | .encFilter => true
  | .encOffsets _ _ _ _ _ _ => true
  | .apply _ => true
  | .capStart => true
  | .capTrigen => true
  | .capForcetrig => true
  | .capQuerystate => true
  | .capGetdata => true
  | .decodeCapstate _ => true
  | .decodeTp _ => true
  | .unwrap _ len block => blockFits len block
  | .buildDataHeader => true
  | .buildStoppedFrame => true
  | .assembleFrame _ len block => blockFits len block
  | .getConfig => true
  | .reset => true

end Sys2Proof
end

