-- ==== Sys2Proof/Decode.lean ====
section
/-! DEFINITION. The request encoding (spec/30_encoding.md R62 to R71): byte order of the operand fields,
the enumeration codes, the decoder from a request to an instruction, and the encoder. -/

namespace Sys2Proof

/-! ## Byte order of operand fields (R69) -/

/-- The `n` bytes of `v`, least significant first (00_scope.md R14, le16 and le32). -/
def leBytes : Nat → Nat → List Byte
  | 0, _ => []
  | n + 1, v => BitVec.ofNat 8 v :: leBytes n (v / 256)

/-- The value of bytes read least significant first (R69). -/
def leNat : List Byte → Nat
  | [] => 0
  | b :: bs => b.toNat + 256 * leNat bs

/-! ## Enumeration codes (R70) -/

/-- The code of a range (R70). -/
def Range.code : Range → Byte
  | .v5 => 0 | .v2 => 1 | .v1 => 2 | .mv500 => 3 | .mv200 => 4 | .mv100 => 5 | .mv50 => 6 | .mv20 => 7 | .mv10 => 8

/-- The range of a code, if the byte is one (R70). -/
def Range.ofCode? (b : Byte) : Option Range :=
  [Range.v5, .v2, .v1, .mv500, .mv200, .mv100, .mv50, .mv20, .mv10].find? (fun x => x.code == b)

/-- The code of a coupling (R70). -/
def Coupling.code : Coupling → Byte
  | .ac => 0 | .dc => 1 | .off => 2

/-- The coupling of a code, if the byte is one (R70). -/
def Coupling.ofCode? (b : Byte) : Option Coupling :=
  [Coupling.ac, .dc, .off].find? (fun x => x.code == b)

/-- The code of a trigger source (R70). -/
def TrigSource.code : TrigSource → Byte
  | .ch1 => 0 | .ch2 => 1 | .alt => 2 | .ext => 3

/-- The trigger source of a code, if the byte is one (R70). -/
def TrigSource.ofCode? (b : Byte) : Option TrigSource :=
  [TrigSource.ch1, .ch2, .alt, .ext].find? (fun x => x.code == b)

/-- The code of a slope (R70). -/
def Slope.code : Slope → Byte
  | .pos => 0 | .neg => 1

/-- The slope of a code, if the byte is one (R70). -/
def Slope.ofCode? (b : Byte) : Option Slope :=
  [Slope.pos, .neg].find? (fun x => x.code == b)

/-- The code of a channel select (R70). -/
def ChanSel.code : ChanSel → Byte
  | .ch1 => 0 | .ch2 => 1 | .both => 2

/-- The channel select of a code, if the byte is one (R70). -/
def ChanSel.ofCode? (b : Byte) : Option ChanSel :=
  [ChanSel.ch1, .ch2, .both].find? (fun x => x.code == b)

/-- The code of a data length (R70). -/
def DataLength.code : DataLength → Byte
  | .small => 1 | .large => 2

/-- The data length of a code, if the byte is one (R70). -/
def DataLength.ofCode? (b : Byte) : Option DataLength :=
  [DataLength.small, .large].find? (fun x => x.code == b)

/-- The channel index (R70). -/
def Channel.code : Channel → Byte
  | .ch1 => 0 | .ch2 => 1

/-- The channel of an index, if the byte is one (R70). -/
def Channel.ofCode? (b : Byte) : Option Channel :=
  [Channel.ch1, .ch2].find? (fun x => x.code == b)

/-! ## Reading operand fields (R64, R69, R71)

Each reader takes its field from the front of the bytes and gives the rest. -/

/-- A u8 field. -/
def takeU8 : List Byte → Option (Byte × List Byte)
  | [] => none
  | b :: bs => some (b, bs)

/-- A little-endian field of `n` bytes. -/
def takeLE (n : Nat) (bs : List Byte) : Option (Nat × List Byte) :=
  if n ≤ bs.length then some (leNat (bs.take n), bs.drop n) else none

/-- A u16 field. -/
def takeU16 (bs : List Byte) : Option (HalfWord × List Byte) := do
  let (v, bs) ← takeLE 2 bs
  some (BitVec.ofNat 16 v, bs)

/-- A u32 field. -/
def takeU32 (bs : List Byte) : Option (Word × List Byte) := do
  let (v, bs) ← takeLE 4 bs
  some (BitVec.ofNat 32 v, bs)

/-- A Q field: numerator, then denominator, 8 bytes each (R71). -/
def takeQ (bs : List Byte) : Option (QOperand × List Byte) := do
  let (n, bs) ← takeLE 8 bs
  let (d, bs) ← takeLE 8 bs
  some (⟨BitVec.ofNat 64 n, BitVec.ofNat 64 d⟩, bs)

/-- A calibration pair: min, then max (R64, R90). -/
def takePair (bs : List Byte) : Option (CalPair × List Byte) := do
  let (mn, bs) ← takeU16 bs
  let (mx, bs) ← takeU16 bs
  some (⟨mn, mx⟩, bs)

/-- The nine pairs of a channel in range order (R64, R95). -/
def takeRow (bs : List Byte) : Option (CalRow × List Byte) := do
  let (a, bs) ← takePair bs
  let (b, bs) ← takePair bs
  let (c, bs) ← takePair bs
  let (d, bs) ← takePair bs
  let (e, bs) ← takePair bs
  let (f, bs) ← takePair bs
  let (g, bs) ← takePair bs
  let (h, bs) ← takePair bs
  let (i, bs) ← takePair bs
  some (⟨a, b, c, d, e, f, g, h, i⟩, bs)

/-- The 36 values of CAL_LOAD, channel 0 first (R64, R90). -/
def takeCal (bs : List Byte) : Option (CalFile × List Byte) := do
  let (a, bs) ← takeRow bs
  let (b, bs) ← takeRow bs
  some (⟨a, b⟩, bs)

/-- The serialized InstrumentConfig (R64). -/
def takeCfg (bs : List Byte) : Option (CfgOperand × List Byte) := do
  let (r0, bs) ← takeU8 bs
  let (cp0, bs) ← takeU8 bs
  let (off0, bs) ← takeQ bs
  let (r1, bs) ← takeU8 bs
  let (cp1, bs) ← takeU8 bs
  let (off1, bs) ← takeQ bs
  let (src, bs) ← takeU8 bs
  let (slope, bs) ← takeU8 bs
  let (toff, bs) ← takeQ bs
  let (sel, bs) ← takeU8 bs
  let (dl, bs) ← takeU8 bs
  let (tb, bs) ← takeQ bs
  let (ta, bs) ← takeQ bs
  some (⟨r0, cp0, off0, r1, cp1, off1, src, slope, toff, sel, dl, tb, ta⟩, bs)

/-- `L` bytes of a block operand (R64, R68). -/
def takeBlock (len : Word) (bs : List Byte) : Option (List Byte × List Byte) :=
  if len.toNat ≤ bs.length then some (bs.take len.toNat, bs.drop len.toNat) else none

/-! ## The decoder (R62, R63, R64) -/

/-- Why a request is no instruction. -/
inductive DecodeError where
  /-- The OPSEL is reserved (R63). REGENC answers it with ILLEGAL_OP. -/
  | reservedOpsel (opsel : Byte)
  /-- The operand record has not the size that R64 gives for the OPSEL: no request R62 describes (log 6). -/
  | malformedRecord (opsel : Byte)
deriving DecidableEq, Repr

/-- The operand record is exactly the operands, with no byte left over (R64, R68; log 6). -/
def wholeRecord (opsel : Byte) : Option (Instr × List Byte) → Except DecodeError Instr
  | some (i, []) => .ok i
  | _ => .error (.malformedRecord opsel)

/-- The instruction a request stands for: the operation map (R62) and the operand records (R64). -/
def decode (r : Request) : Except DecodeError Instr :=
  match r.opsel with
  | 0x01#8 => wholeRecord r.opsel (do
      let (lv, bs) ← takeCal r.operands
      some (.calLoad lv, bs))
  | 0x02#8 => wholeRecord r.opsel (do
      let (c, bs) ← takeU8 r.operands
      let (x, bs) ← takeU8 bs
      some (.calLookup c x, bs))
  | 0x10#8 => wholeRecord r.opsel (do
      let (r0, bs) ← takeU8 r.operands
      let (cp0, bs) ← takeU8 bs
      let (r1, bs) ← takeU8 bs
      let (cp1, bs) ← takeU8 bs
      some (.encVoltage r0 cp0 r1 cp1, bs))
  | 0x11#8 => wholeRecord r.opsel (do
      let (r0, bs) ← takeU8 r.operands
      let (cp0, bs) ← takeU8 bs
      let (r1, bs) ← takeU8 bs
      let (cp1, bs) ← takeU8 bs
      let (src, bs) ← takeU8 bs
      some (.encRelays r0 cp0 r1 cp1 src, bs))
  | 0x12#8 => wholeRecord r.opsel (do
      let (src, bs) ← takeU8 r.operands
      let (slope, bs) ← takeU8 bs
      some (.encTrigin src slope, bs))
  | 0x13#8 => wholeRecord r.opsel (do
      let (sel, bs) ← takeU8 r.operands
      some (.encChannels sel, bs))
  | 0x14#8 => wholeRecord r.opsel (do
      let (dl, bs) ← takeU8 r.operands
      some (.encRamlen dl, bs))
  | 0x15#8 => wholeRecord r.opsel (do
      let (q, bs) ← takeQ r.operands
      some (.quantSamplerate q, bs))
  | 0x16#8 => wholeRecord r.opsel (do
      let (dl, bs) ← takeU8 r.operands
      let (ta, bs) ← takeQ bs
      some (.encTriglen dl ta, bs))
  | 0x17#8 => wholeRecord r.opsel (some (.encFilter, r.operands))
  | 0x18#8 => wholeRecord r.opsel (do
      let (r0, bs) ← takeU8 r.operands
      let (off0, bs) ← takeQ bs
      let (r1, bs) ← takeU8 bs
      let (off1, bs) ← takeQ bs
      let (src, bs) ← takeU8 bs
      let (toff, bs) ← takeQ bs
      some (.encOffsets r0 off0 r1 off1 src toff, bs))
  | 0x1F#8 => wholeRecord r.opsel (do
      let (cfg, bs) ← takeCfg r.operands
      some (.apply cfg, bs))
  | 0x20#8 => wholeRecord r.opsel (some (.capStart, r.operands))
  | 0x21#8 => wholeRecord r.opsel (some (.capTrigen, r.operands))
  | 0x22#8 => wholeRecord r.opsel (some (.capForcetrig, r.operands))
  | 0x23#8 => wholeRecord r.opsel (some (.capQuerystate, r.operands))
  | 0x24#8 => wholeRecord r.opsel (some (.capGetdata, r.operands))
  | 0x28#8 => wholeRecord r.opsel (do
      let (v, bs) ← takeU32 r.operands
      some (.decodeCapstate v, bs))
  | 0x30#8 => wholeRecord r.opsel (do
      let (p, bs) ← takeU32 r.operands
      some (.decodeTp p, bs))
  | 0x31#8 => wholeRecord r.opsel (do
      let (tp, bs) ← takeU16 r.operands
      let (len, bs) ← takeU32 bs
      let (block, bs) ← takeBlock len bs
      some (.unwrap tp len block, bs))
  | 0x32#8 => wholeRecord r.opsel (some (.buildDataHeader, r.operands))
  | 0x33#8 => wholeRecord r.opsel (some (.buildStoppedFrame, r.operands))
  | 0x34#8 => wholeRecord r.opsel (do
      let (p, bs) ← takeU32 r.operands
      let (len, bs) ← takeU32 bs
      let (block, bs) ← takeBlock len bs
      some (.assembleFrame p len block, bs))
  | 0x3E#8 => wholeRecord r.opsel (some (.getConfig, r.operands))
  | 0x3F#8 => wholeRecord r.opsel (some (.reset, r.operands))
  | op => .error (.reservedOpsel op)

/-- The serialized form of a request: byte 0 is OPSEL, then the operand record (R62). -/
def decodeBytes : List Byte → Option (Except DecodeError Instr)
  | [] => none
  | op :: bs => some (decode ⟨op, bs⟩)

/-! ## The encoder (R62, R64, R69, R71) -/

/-- The OPSEL of an operation (R62). -/
def Instr.opsel : Instr → Byte
  | .calLoad _ => 0x01
  | .calLookup _ _ => 0x02
  | .encVoltage _ _ _ _ => 0x10
  | .encRelays _ _ _ _ _ => 0x11
  | .encTrigin _ _ => 0x12
  | .encChannels _ => 0x13
  | .encRamlen _ => 0x14
  | .quantSamplerate _ => 0x15
  | .encTriglen _ _ => 0x16
  | .encFilter => 0x17
  | .encOffsets _ _ _ _ _ _ => 0x18
  | .apply _ => 0x1F
  | .capStart => 0x20
  | .capTrigen => 0x21
  | .capForcetrig => 0x22
  | .capQuerystate => 0x23
  | .capGetdata => 0x24
  | .decodeCapstate _ => 0x28
  | .decodeTp _ => 0x30
  | .unwrap _ _ _ => 0x31
  | .buildDataHeader => 0x32
  | .buildStoppedFrame => 0x33
  | .assembleFrame _ _ _ => 0x34
  | .getConfig => 0x3E
  | .reset => 0x3F

/-- The 16 bytes of a Q operand (R71). -/
def encodeQ (q : QOperand) : List Byte := leBytes 8 q.num.toNat ++ leBytes 8 q.den.toNat

/-- The 4 bytes of a calibration pair (R64, R90). -/
def encodePair (p : CalPair) : List Byte := leBytes 2 p.min.toNat ++ leBytes 2 p.max.toNat

/-- The 36 bytes of a channel's calibration (R64, R90). -/
def encodeRow (r : CalRow) : List Byte :=
  encodePair r.v5 ++ (encodePair r.v2 ++ (encodePair r.v1 ++ (encodePair r.mv500 ++ (encodePair r.mv200 ++
    (encodePair r.mv100 ++ (encodePair r.mv50 ++ (encodePair r.mv20 ++ encodePair r.mv10)))))))

/-- The 88 bytes of a configuration (R64). -/
def encodeCfg (c : CfgOperand) : List Byte :=
  c.r0 :: c.cp0 :: (encodeQ c.off0 ++ c.r1 :: c.cp1 :: (encodeQ c.off1 ++ c.src :: c.slope ::
    (encodeQ c.toff ++ c.sel :: c.dl :: (encodeQ c.tb ++ encodeQ c.ta))))

/-- The operand record of an operation (R64). -/
def Instr.operandBytes : Instr → List Byte
  | .calLoad lv => encodeRow lv.ch1 ++ encodeRow lv.ch2
  | .calLookup c r => [c, r]
  | .encVoltage r0 cp0 r1 cp1 => [r0, cp0, r1, cp1]
  | .encRelays r0 cp0 r1 cp1 src => [r0, cp0, r1, cp1, src]
  | .encTrigin src slope => [src, slope]
  | .encChannels sel => [sel]
  | .encRamlen dl => [dl]
  | .quantSamplerate q => encodeQ q
  | .encTriglen dl ta => dl :: encodeQ ta
  | .encFilter => []
  | .encOffsets r0 off0 r1 off1 src toff => r0 :: (encodeQ off0 ++ r1 :: (encodeQ off1 ++ src :: encodeQ toff))
  | .apply c => encodeCfg c
  | .capStart => []
  | .capTrigen => []
  | .capForcetrig => []
  | .capQuerystate => []
  | .capGetdata => []
  | .decodeCapstate v => leBytes 4 v.toNat
  | .decodeTp p => leBytes 4 p.toNat
  | .unwrap tp len block => leBytes 2 tp.toNat ++ (leBytes 4 len.toNat ++ block)
  | .buildDataHeader => []
  | .buildStoppedFrame => []
  | .assembleFrame p len block => leBytes 4 p.toNat ++ (leBytes 4 len.toNat ++ block)
  | .getConfig => []
  | .reset => []

/-- The request of an operation (R62). -/
def encode (i : Instr) : Request := ⟨i.opsel, i.operandBytes⟩

/-- The serialized request of an operation (R62). -/
def encodeBytes (i : Instr) : List Byte := i.opsel :: i.operandBytes

/-! ## Pseudo-operations (R67) and requests made from device responses (44_capture_control.md R176,
45_frame_assembler.md R185) -/

/-- ARM (R67). -/
def arm : List Instr := [.capStart, .capTrigen, .capForcetrig]

/-- REARM (R67). -/
def rearm : List Instr := [.capStart, .capTrigen]

/-- A rational as a Q operand, in lowest terms (R71). -/
def QOperand.ofRat (q : Rat) : QOperand := ⟨BitVec.ofInt 64 q.num, BitVec.ofNat 64 q.den⟩

/-- An InstrumentConfig serialized as the operand of APPLY (R64, R70, R71). -/
def CfgOperand.ofConfig (cfg : InstrumentConfig) : CfgOperand where
  r0 := cfg.ch0.range.code
  cp0 := cfg.ch0.coupling.code
  off0 := .ofRat cfg.ch0.offset
  r1 := cfg.ch1.range.code
  cp1 := cfg.ch1.coupling.code
  off1 := .ofRat cfg.ch1.offset
  src := cfg.trigger.source.code
  slope := cfg.trigger.slope.code
  toff := .ofRat cfg.trigger.offset
  sel := cfg.channelSelect.code
  dl := cfg.dataLength.code
  tb := .ofRat cfg.timeBase.val
  ta := .ofRat cfg.triggerAddress

/-- BOOT with a calibration: RESET, CAL_LOAD, APPLY CFG_DEFAULT (R67, 70_reset_and_hazards.md R245; log 32). -/
def boot (lv : CalFile) : List Instr := [.reset, .calLoad lv, .apply (.ofConfig Config.cfgDefault)]

/-- The request that decodes a capture-state response, which the HOST reads (44_capture_control.md R176). -/
def capstateRequest (response : List Byte) : Instr := .decodeCapstate (Config.capStateAssemble response)

/-- The request that decodes the two device fields of a trigger pointer (45_frame_assembler.md R185). -/
def pointerRequest (f1 f2 : Nat) : Instr := .decodeTp ((Config.tpAssemble f1 f2).setWidth 32)

/-! ## The opcode table's numbering of a request's bits

Bit 0 is the least significant bit of the first byte; bytes beyond the given bits are 0. -/

/-- The size of the operand record that the OPSEL, and for a block the field L, fixes (R64, R68). -/
def recordSize (opsel : Byte) (bs : List Byte) : Nat :=
  match opsel with
  | 0x01#8 => 72
  | 0x02#8 => 2
  | 0x10#8 => 4
  | 0x11#8 => 5
  | 0x12#8 => 2
  | 0x13#8 => 1
  | 0x14#8 => 1
  | 0x15#8 => 16
  | 0x16#8 => 17
  | 0x18#8 => 51
  | 0x1F#8 => 88
  | 0x28#8 => 4
  | 0x30#8 => 4
  | 0x31#8 => 6 + leNat ((bs.drop 2).take 4)
  | 0x34#8 => 8 + leNat ((bs.drop 4).take 4)
  | _ => 0

/-- The request whose first `nbits` bits are `w` and whose other bits are 0. -/
def requestOfWord (nbits w : Nat) : Request :=
  let bs := leBytes (nbits / 8) w
  let n := recordSize (bs.headD 0) bs.tail
  ⟨bs.headD 0, (bs.tail ++ List.replicate n 0).take n⟩

/-- The instruction the decoder reads from an instruction whose bits are `w`, numbered as
spec/opcode_table.json numbers them. -/
def decodeTableWord (nbits w : Nat) : Option Instr :=
  match decode (requestOfWord nbits w) with
  | .ok i => some i
  | .error _ => none

end Sys2Proof
end

