-- ==== Sys2Proof/Machine/State.lean ====
section
/-! DEFINITION. The state of REGENC as plain data (spec/10_state.md), the stops of the model, and the
state after reset (spec/10_state.md R40, spec/70_reset_and_hazards.md R236). -/

namespace Sys2Proof.Machine

/-- A byte space as a list of (address, byte) cells with strictly rising addresses. An address that is
not listed has no value: the spec gives the buffers no contents until something writes them
(20_memory.md R45, 70_reset_and_hazards.md R236; log 12). -/
abbrev Memory := List Host.Cell

/-- A transfer request (00_scope.md R16). -/
inductive Transfer where
  | controlOut (request : Byte) (value : HalfWord) (index : HalfWord) (payload : List Byte)
  | bulkOut (endpoint : Byte) (bytes : List Byte)
deriving DecidableEq, Repr, Inhabited

/-- The kind of a transfer, which a TRANSPORT fault reports (41_command_encoder.md R101). -/
inductive XferKind where
  | beginCmd | relays | offsets | bulk
deriving DecidableEq, Repr, Inhabited

/-- The register write that the success of a transfer brings with it. -/
inductive Effect where
  /-- No register is written. -/
  | none
  /-- RELAY_SHADOW and RELAY_VALID (43_config_translator.md R139). -/
  | relayShadow (mask : RelayMask)
  /-- SAMPLE_T_CODE and SAMPLE_T_VALID (42_sample_clock.md R129). -/
  | sampleT (code : BitVec 4)
deriving DecidableEq, Repr, Inhabited

/-- One item of what an accepted operation has still to do (log 1). -/
inductive Action where
  /-- Emit a transfer; on success, write the effect's registers (41_command_encoder.md R101). -/
  | xfer (kind : XferKind) (x : Transfer) (eff : Effect)
  /-- The relay transfer, unless it is suppressed (43_config_translator.md R137, R138). -/
  | relays (mask : RelayMask)
  /-- Set the sequencer step (10_state.md R21, 00_scope.md R15). -/
  | seq (k : BitVec 4)
deriving DecidableEq, Repr, Inhabited

/-- An event on the inputs XFER_DONE, XFER_OK and RST (10_state.md R38, R39; log 2). -/
inductive Pin where
  /-- The block looks at RST once and finds it not asserted; what comes next in the list comes after that
  (R39; log 3). -/
  | quiet
  /-- The transport completes the transfer on offer, with this XFER_OK (R38). -/
  | done (ok : Bool)
  /-- The completion of a transfer that a reset abandoned comes late (70_reset_and_hazards.md R238; log 4). -/
  | late (ok : Bool)
  /-- RST is asserted (R39). -/
  | rst
deriving DecidableEq, Repr, Inhabited

/-- The fault record FAULT_CODE, FAULT_OP, FAULT_SEQ, FAULT_XFER, FAULT_INFO (10_state.md R29). -/
structure FaultRecord where
  code : BitVec 4
  op : Byte
  seq : BitVec 4
  xfer : Byte
  info : Word
deriving DecidableEq, Repr, Inhabited

/-- The fault codes but NONE (60_exceptions.md R210). -/
inductive FaultCode where
  | transport | illegalOp | badOperand | calNotLoaded | sampleRange | sampleTUnset | offsetRange | tpRange | blockLen
deriving DecidableEq, Repr, Inhabited

/-- What `raise Fault(code, info)` is given (60_exceptions.md R215). -/
structure FaultReason where
  code : FaultCode
  info : Word
deriving DecidableEq, Repr, Inhabited

/-- RES_KIND (10_state.md R37). -/
inductive ResKind where
  | ok | fault | faulted
deriving DecidableEq, Repr, Inhabited

/-- The result of DECODE_CAPSTATE (44_capture_control.md R177). -/
inductive CapState where
  | waiting | capturing | ready | unknown
deriving DecidableEq, Repr, Inhabited

/-- RES_VALUE, whose type depends on OPSEL (10_state.md R37). -/
inductive ResValue where
  /-- A number: OK(0), OK(done), OK(32), OK(20480) (R90, R103, R190, R196, R199, R237). -/
  | count (n : Nat)
  /-- CAL_LOOKUP (R94). -/
  | pair (p : CalPair)
  /-- DECODE_CAPSTATE: the result code and the raw value (R177). -/
  | capState (c : CapState) (v : Word)
  /-- DECODE_TP (R186). -/
  | pointer (tp : HalfWord)
  /-- ASSEMBLE_FRAME: the frame's size and the pointer (R201). -/
  | frame (n : Nat) (tp : HalfWord)
  /-- GET_CONFIG: CFG, SAMPLE_T_VALID, and the code or 0 (R166). -/
  | config (cfg : InstrumentConfig) (valid : Bool) (code : BitVec 4)
  /-- The fault record, on FAULT and FAULTED (R37, R217). -/
  | record (r : FaultRecord)
deriving DecidableEq, Repr, Inhabited

/-- How the MODEL can stop. REGENC's own faults are next states (60_exceptions.md R215, log 28). -/
inductive Fault where
  /-- An access past the end of IBUF, which no operation does (20_memory.md R46). Raised by `memRead` and
  `placeBlock`; only an ill-formed UNWRAP or ASSEMBLE_FRAME, whose block is not Bytes[L], can reach it. Safe. -/
  | outsideIbuf (address : Nat)
  /-- MemWrite past the end of OBUF, which no operation does (20_memory.md R46). Raised by `memWrite`. Safe. -/
  | outsideObuf (address : Nat)
  /-- MemRead of a byte that nothing has written. Raised by `memRead`; only an ill-formed UNWRAP or
  ASSEMBLE_FRAME, whose block is not Bytes[L], can reach it. Safe. -/
  | noValue (address : Nat)
deriving DecidableEq, Repr

/-- What the MODEL has no meaning for. -/
inductive Refusal where
  /-- An arm of exec without a meaning. Raised by no arm of this model. Safe. -/
  | notModelled (mnemonic : String)
  /-- The operand record on the request port has not the size R64 gives it, so it is no request of R62.
  Raised by `accept`. Safe (log 6). -/
  | malformedRequest (opsel : Byte)
  /-- The parameters break 30_encoding.md R73 or 00_scope.md R11: a model instance that must be refused.
  Raised by `fetch`. Safe (log 20). -/
  | illFormedInstance
deriving DecidableEq, Repr

/-- The state of REGENC. Fields of the spec first, with the rule that names each; then the inputs that
the host and the transport drive; then the fields of an operation in progress and the model's own. -/
structure State where
  /-- SEQ (10_state.md R21). -/
  seq : BitVec 4
  /-- BUSY (10_state.md R22). -/
  busy : Bool
  /-- CAL (10_state.md R23). -/
  cal : CalFile
  /-- CAL_VALID (10_state.md R24). -/
  calValid : Bool
  /-- RELAY_SHADOW (10_state.md R25). -/
  relayShadow : RelayMask
  /-- RELAY_VALID (10_state.md R25). -/
  relayValid : Bool
  /-- SAMPLE_T_CODE (10_state.md R26). -/
  sampleTCode : BitVec 4
  /-- SAMPLE_T_VALID (10_state.md R26). -/
  sampleTValid : Bool
  /-- CFG (10_state.md R28). -/
  cfg : InstrumentConfig
  /-- The fault record (10_state.md R29). -/
  fault : FaultRecord
  /-- XFER_VALID (10_state.md R38). -/
  xferValid : Bool
  /-- XFER (10_state.md R38). -/
  xfer : Transfer
  /-- RES_VALID (10_state.md R37). -/
  resValid : Bool
  /-- RES_KIND (10_state.md R37). -/
  resKind : ResKind
  /-- RES_VALUE (10_state.md R37). -/
  resValue : ResValue
  /-- IBUF (20_memory.md R45). -/
  ibuf : Memory
  /-- OBUF (20_memory.md R45). -/
  obuf : Memory
  /-- The requests the host offers, the one on the port first (10_state.md R36; log 5). -/
  reqs : List Request
  /-- The events to come on XFER_DONE, XFER_OK and RST (10_state.md R38, R39; log 2). -/
  pins : List Pin
  /-- The OPSEL of the current operation (60_exceptions.md R215). -/
  op : Byte
  /-- The transfers the current operation has completed (41_command_encoder.md R101). -/
  done : Nat
  /-- What is left of the operation in progress; the model's own field (log 1). -/
  work : List Action
  /-- Every transfer offered so far, in order; the model's own field (20_memory.md R53; log 24). -/
  sent : List Transfer
deriving DecidableEq, Repr

/-- FAULT_CODE = NONE, and every field 0 (10_state.md R40). -/
def FaultRecord.none : FaultRecord := ⟨0, 0, 0, 0, 0⟩

/-- The calibration file's value at reset, which the spec leaves unspecified (10_state.md R40; DESIGN
CHOICE, unsafe, log 8). -/
def calAtReset : CalFile :=
  let p : CalPair := ⟨0, 0⟩
  let r : CalRow := ⟨p, p, p, p, p, p, p, p, p⟩
  ⟨r, r⟩

/-- The relay shadow's value at reset, which the spec leaves unspecified (10_state.md R40; DESIGN
CHOICE, unsafe, log 9). -/
def relayShadowAtReset : RelayMask := #v[0, 0, 0, 0, 0, 0, 0, 0, 0, 0, 0, 0, 0, 0, 0, 0, 0]

/-- REGENC right after reset (10_state.md R40). The values the spec leaves unspecified are named in
logs 8 to 12 (DESIGN CHOICE); no request is offered and no input event is to come (logs 2, 5, 27). -/
def State.reset : State where
  seq := 0
  busy := false
  cal := calAtReset
  calValid := false
  relayShadow := relayShadowAtReset
  relayValid := false
  sampleTCode := 0
  sampleTValid := false
  cfg := Config.cfgDefault
  fault := .none
  xferValid := false
  xfer := .bulkOut 0 []
  resValid := false
  resKind := .ok
  resValue := .count 0
  ibuf := []
  obuf := []
  reqs := []
  pins := []
  op := 0
  done := 0
  work := []
  sent := []

end Sys2Proof.Machine
end

