-- ==== Sys2Proof/Machine/Operands.lean ====
section
/-! DEFINITION. The operand checks (spec/30_encoding.md R65): each operand record is read field by field
in serialized order into its types, and the first bad field gives BAD_OPERAND with its byte offset in
the record (spec/60_exceptions.md R212). -/

namespace Sys2Proof.Machine

/-- BAD_OPERAND with the byte offset of the bad field (60_exceptions.md R212). -/
def badOperand (off : Nat) : FaultReason := ⟨.badOperand, BitVec.ofNat 32 off⟩

/-- The field at a byte offset, or BAD_OPERAND there (30_encoding.md R65). -/
def field {α : Type} (off : Nat) : Option α → Except FaultReason α
  | some a => .ok a
  | none => .error (badOperand off)

/-- The value n/d of a Q operand, if d is not zero (30_encoding.md R71). -/
def qValue? (q : QOperand) : Option Rat :=
  if q.den = 0 then none else some (mkRat q.num.toInt q.den.toNat)

/-- The value of a positive Q operand: timeBase is Q>0 (00_scope.md R19, 43_config_translator.md R161). -/
def qPositive? (q : QOperand) : Option PosRat :=
  (qValue? q).bind (fun v => if h : 0 < v then some ⟨v, h⟩ else none)

/-- A raw pointer whose bits 31:18 are 0 (30_encoding.md R64, R65). -/
def rawPointer? (p : Word) : Option Word := if p >>> 18 = 0 then some p else none

/-- The operands of CAL_LOOKUP (40_calibration.md R94). -/
def lookupOperands (c r : Byte) : Except FaultReason (Channel × Range) := do
  let c ← field 0 (Channel.ofCode? c)
  let r ← field 1 (Range.ofCode? r)
  pure (c, r)

/-- The operands of ENC_VOLTAGE (41_command_encoder.md R105). -/
def voltageOperands (r0 cp0 r1 cp1 : Byte) : Except FaultReason (Range × Coupling × Range × Coupling) := do
  let r0 ← field 0 (Range.ofCode? r0)
  let cp0 ← field 1 (Coupling.ofCode? cp0)
  let r1 ← field 2 (Range.ofCode? r1)
  let cp1 ← field 3 (Coupling.ofCode? cp1)
  pure (r0, cp0, r1, cp1)

/-- The operands of ENC_RELAYS (43_config_translator.md R137). -/
def relayOperands (r0 cp0 r1 cp1 src : Byte) :
    Except FaultReason (Range × Coupling × Range × Coupling × TrigSource) := do
  let r0 ← field 0 (Range.ofCode? r0)
  let cp0 ← field 1 (Coupling.ofCode? cp0)
  let r1 ← field 2 (Range.ofCode? r1)
  let cp1 ← field 3 (Coupling.ofCode? cp1)
  let src ← field 4 (TrigSource.ofCode? src)
  pure (r0, cp0, r1, cp1, src)

/-- The operands of ENC_TRIGIN (41_command_encoder.md R108). -/
def triginOperands (src slope : Byte) : Except FaultReason (TrigSource × Slope) := do
  let src ← field 0 (TrigSource.ofCode? src)
  let slope ← field 1 (Slope.ofCode? slope)
  pure (src, slope)

/-- The operand of ENC_CHANNELS (41_command_encoder.md R110). -/
def channelsOperand (sel : Byte) : Except FaultReason ChanSel := field 0 (ChanSel.ofCode? sel)

/-- The operand of ENC_RAMLEN (41_command_encoder.md R112). -/
def ramlenOperand (dl : Byte) : Except FaultReason DataLength := field 0 (DataLength.ofCode? dl)

/-- The operand of QUANT_SAMPLERATE (42_sample_clock.md R124). -/
def rateOperand (req : QOperand) : Except FaultReason Rat := field 0 (qValue? req)

/-- The operands of ENC_TRIGLEN (43_config_translator.md R144). -/
def triglenOperands (dl : Byte) (ta : QOperand) : Except FaultReason (DataLength × Rat) := do
  let dl ← field 0 (DataLength.ofCode? dl)
  let ta ← field 1 (qValue? ta)
  pure (dl, ta)

/-- The operands of ENC_OFFSETS, checked (43_config_translator.md R152). -/
structure OffsetOperands where
  r0 : Range
  off0 : Rat
  r1 : Range
  off1 : Rat
  src : TrigSource
  toff : Rat
deriving DecidableEq, Repr

/-- The operands of ENC_OFFSETS (43_config_translator.md R152). -/
def offsetOperands (r0 : Byte) (off0 : QOperand) (r1 : Byte) (off1 : QOperand) (src : Byte) (toff : QOperand) :
    Except FaultReason OffsetOperands := do
  let r0 ← field 0 (Range.ofCode? r0)
  let off0 ← field 1 (qValue? off0)
  let r1 ← field 17 (Range.ofCode? r1)
  let off1 ← field 18 (qValue? off1)
  let src ← field 34 (TrigSource.ofCode? src)
  let toff ← field 35 (qValue? toff)
  pure ⟨r0, off0, r1, off1, src, toff⟩

/-- The configuration of APPLY (43_config_translator.md R161, check 1). -/
def configOperand (c : CfgOperand) : Except FaultReason InstrumentConfig := do
  let r0 ← field 0 (Range.ofCode? c.r0)
  let cp0 ← field 1 (Coupling.ofCode? c.cp0)
  let off0 ← field 2 (qValue? c.off0)
  let r1 ← field 18 (Range.ofCode? c.r1)
  let cp1 ← field 19 (Coupling.ofCode? c.cp1)
  let off1 ← field 20 (qValue? c.off1)
  let src ← field 36 (TrigSource.ofCode? c.src)
  let slope ← field 37 (Slope.ofCode? c.slope)
  let toff ← field 38 (qValue? c.toff)
  let sel ← field 54 (ChanSel.ofCode? c.sel)
  let dl ← field 55 (DataLength.ofCode? c.dl)
  let tb ← field 56 (qPositive? c.tb)
  let ta ← field 72 (qValue? c.ta)
  pure ⟨⟨r0, cp0, off0⟩, ⟨r1, cp1, off1⟩, ⟨src, slope, toff⟩, sel, dl, tb, ta⟩

/-- The raw pointer of DECODE_TP and ASSEMBLE_FRAME (45_frame_assembler.md R186, R201). -/
def pointerOperand (p : Word) : Except FaultReason Word := field 0 (rawPointer? p)

end Sys2Proof.Machine
end

