-- ==== Sys2Proof/Machine/Arith.lean ====
section
/-! DEFINITION. The arithmetic and byte packing of spec/00_scope.md R13 and R14: rounding, clamping,
binary32, and the fixed byte orders of spec/20_memory.md R48. -/

namespace Sys2Proof.Machine

/-- `roundHalfUp(q) = floor(q + 1/2)` (00_scope.md R13). -/
def roundHalfUp (q : Rat) : Int := (q + 1 / 2).floor

/-- `clamp(lo, hi, q) = max(lo, min(hi, q))` over the rationals (00_scope.md R13). -/
def clampRat (lo hi q : Rat) : Rat := max lo (min hi q)

/-- `clamp(lo, hi, q)` over the integers (00_scope.md R13). -/
def clampInt (lo hi q : Int) : Int := max lo (min hi q)

/-- le16 (00_scope.md R14). -/
def le16 (v : HalfWord) : List Byte := leBytes 2 v.toNat

/-- le32 (00_scope.md R14). -/
def le32 (v : Word) : List Byte := leBytes 4 v.toNat

/-- be16 (00_scope.md R14). -/
def be16 (v : HalfWord) : List Byte := (leBytes 2 v.toNat).reverse

/-- `n` zero bytes. -/
def zeros (n : Nat) : List Byte := List.replicate n 0

/-- `n / d` to the nearest natural number, ties to even. -/
def divNearestEven (n d : Nat) : Nat :=
  let q := n / d
  let r := n % d
  if 2 * r > d ∨ (2 * r = d ∧ q % 2 = 1) then q + 1 else q

/-- The exponent of `n / d`: the greatest `e` with `2^e ≤ n / d`, for positive `n` and `d`. -/
def binaryExponent (n d : Nat) : Int :=
  let e : Int := (Nat.log2 n : Int) - Nat.log2 d
  if 2 ^ (-e).toNat * n < 2 ^ e.toNat * d then e - 1 else e

/-- The binary32 pattern of the positive rational `n / d`, without the sign: the significand is rounded
to 24 bits (fewer below 2^-126), nearest, ties to even, and what does not fit is infinity
(00_scope.md R14, 45_frame_assembler.md R197; log 21). -/
def f32Magnitude (n d : Nat) : Nat :=
  let e := max (binaryExponent n d) (-126)
  let m := divNearestEven (n * 2 ^ (23 - e).toNat) (d * 2 ^ (e - 23).toNat)
  min ((e + 126).toNat * 2 ^ 23 + m) 0x7F800000

/-- `f32(q)`: the IEEE-754 binary32 pattern of a rational, nearest, ties to even (00_scope.md R14). -/
def f32 (q : Rat) : Word :=
  if q.num = 0 then 0
  else
    let magnitude := f32Magnitude q.num.natAbs q.den
    BitVec.ofNat 32 (if q.num < 0 then 0x80000000 + magnitude else magnitude)

/-- The multiplier m of the staircase code `c ≥ 1` (10_state.md R26). -/
def stairMultiplier (c : BitVec 4) : Nat :=
  match (c.toNat - 1) % 3 with
  | 0 => 1
  | 1 => 2
  | _ => 4

/-- N = ST(c) / 10 ns for the staircase code `c ≥ 1` (42_sample_clock.md R124). -/
def stairCount (c : BitVec 4) : Nat := stairMultiplier c * 10 ^ ((c.toNat - 1) / 3)

/-- ST(c), the seconds per sample of a code (10_state.md R26, 42_sample_clock.md R121). -/
def stair (c : BitVec 4) : Rat := if c = 0 then 8 / 10 ^ 9 else (stairCount c : Rat) * (10 / 10 ^ 9)

/-- The codes of the divided mode in the order they are scanned (42_sample_clock.md R123). -/
def dividedCodes : List (BitVec 4) := [1, 2, 3, 4, 5, 6, 7, 8, 9, 10, 11, 12, 13, 14, 15]

/-- The code a request selects, or none above 400 µs (42_sample_clock.md R122 to R126, R128). -/
def quantize (req : Rat) : Option (BitVec 4) :=
  if req ≤ 8 / 10 ^ 9 then some 0 else dividedCodes.find? (fun c => decide (req ≤ stair c))

/-- FASTSEL (42_sample_clock.md R125). -/
def fastSel (c : BitVec 4) : Bool := c == 0

/-- SLOWSEL (42_sample_clock.md R125). -/
def slowSel (c : BitVec 4) : Bool := c != 0 && stairMultiplier c != 1

/-- DIV: u17 (42_sample_clock.md R125). -/
def divider (c : BitVec 4) : BitVec 17 := if c = 0 then 1 else BitVec.ofNat 17 (0x10001 - stairCount c)

/-- One step of the pointer transform: XOR the accumulator's low bit with the top bit of the 16-bit
register, shift the accumulator left and put the XOR in, shift the input left (45_frame_assembler.md R187). -/
def tpStep (x : BitVec 18) (acc : HalfWord) : BitVec 18 × HalfWord :=
  let r := acc.getLsbD 0 ^^ x.getLsbD 15
  (x <<< 1, (acc <<< 1) ||| BitVec.setWidth 16 (BitVec.ofBool r))

/-- `n` steps of the pointer transform from `x` and `acc` (45_frame_assembler.md R187). -/
def tpLoop : Nat → BitVec 18 → HalfWord → HalfWord
  | 0, _, acc => acc
  | n + 1, x, acc => tpLoop n (tpStep x acc).1 (tpStep x acc).2

/-- TpTransform(P), 16 steps from the accumulator 0 (45_frame_assembler.md R187). -/
def tpTransform (p : Word) : HalfWord := tpLoop 16 (BitVec.setWidth 18 p) 0

end Sys2Proof.Machine
end

