-- ==== Sys2Proof/Machine/Defaults.lean ====
section
/-! DEFINITION. The default parameters of the model instance: opcode bytes (spec/30_encoding.md R86),
transport codes (R87), payload layouts (R78 to R85), relay derivation and packing
(spec/43_config_translator.md R136), offset payload length (spec/00_scope.md R11) and override cell
(spec/40_calibration.md R91). All are the spec's defaults, none the source's (logs 17, 18, 19). -/

namespace Sys2Proof.Machine

/-- A flag as a byte, 0x00 or 0x01 (43_config_translator.md R136). -/
def flagByte (b : Bool) : Byte := if b then 1 else 0

/-- LAYOUT_VOLTAGE after byte 0 (30_encoding.md R78). -/
def defaultLayoutVoltage (r0 : Range) (cp0 : Coupling) (r1 : Range) (cp1 : Coupling) : List Byte :=
  [0, r0.code, cp0.code, r1.code, cp1.code, 0, 0]

/-- LAYOUT_TRIGIN after byte 0 (30_encoding.md R79). -/
def defaultLayoutTrigin (src : TrigSource) (slope : Slope) : List Byte := [0, src.code, slope.code]

/-- LAYOUT_CHANNELS after byte 0 (30_encoding.md R80). -/
def defaultLayoutChannels (sel : ChanSel) : List Byte := [0, sel.code, 0]

/-- LAYOUT_RAMLEN after byte 0 (30_encoding.md R81). -/
def defaultLayoutRamlen (dl : DataLength) : List Byte := [0, dl.code, 0]

/-- LAYOUT_SAMPLERATE after byte 0: `FASTSEL | (SLOWSEL << 1)` in byte 2, DIV little-endian (30_encoding.md R82). -/
def defaultLayoutSamplerate (fast slow : Bool) (div : BitVec 17) : List Byte :=
  0 :: (flagByte fast ||| (flagByte slow <<< 1)) :: 0 :: le32 (div.setWidth 32)

/-- LAYOUT_TRIGLEN_HDR after byte 0 (30_encoding.md R83). -/
def defaultLayoutTriglenHdr : List Byte := [0, 0, 0]

/-- FILTER_PAYLOAD after byte 0 (30_encoding.md R84). -/
def defaultFilterPayload : List Byte := [0, 0, 0]

/-- LAYOUT_CAPCTL after byte 0 (30_encoding.md R85). -/
def defaultLayoutCapctl : List Byte := [0]

/-- RANGE_RELAY: A below 1 V, B below 100 mV (43_config_translator.md R136). -/
def defaultRangeRelay (r : Range) : Bool × Bool := (decide (3 ≤ r.code.toNat), decide (6 ≤ r.code.toNat))

/-- COUPLING_RELAY (43_config_translator.md R136). -/
def defaultCouplingRelay (cp : Coupling) : Bool := cp == .dc

/-- RELAY_PACK (43_config_translator.md R136). -/
def defaultRelayPack (a0 b0 dc0 a1 b1 dc1 e : Bool) : RelayMask :=
  #v[0, flagByte a0, flagByte b0, flagByte dc0, flagByte a1, flagByte b1, flagByte dc1, flagByte e,
    0, 0, 0, 0, 0, 0, 0, 0, 0]

/-- The parameters of the model instance: the defaults (30_encoding.md R78 to R87, 43_config_translator.md
R136, 00_scope.md R11, 40_calibration.md R91; logs 17, 18, 19). -/
def params : Params where
  opcVoltage := 0x07
  opcTrigin := 0x0C
  opcChannels := 0x0B
  opcRamlen := 0x0D
  opcSamplerate := 0x0E
  opcTriglen := 0x0F
  opcFilter := 0x00
  opcCapstart := 0x03
  opcTrigen := 0x04
  opcForcetrig := 0x02
  opcQuerystate := 0x06
  opcGetdata := 0x05
  reqBegin := 0xB3
  reqRelays := 0xB5
  reqOffsets := 0xB4
  ctlValue := 0x0000
  ctlIndex := 0x0000
  epBulkOut := 0x02
  layoutVoltage := defaultLayoutVoltage
  layoutTrigin := defaultLayoutTrigin
  layoutChannels := defaultLayoutChannels
  layoutRamlen := defaultLayoutRamlen
  layoutSamplerate := defaultLayoutSamplerate
  layoutTriglenHdr := defaultLayoutTriglenHdr
  filterPayload := defaultFilterPayload
  layoutCapctl := defaultLayoutCapctl
  rangeRelay := defaultRangeRelay
  couplingRelay := defaultCouplingRelay
  relayPack := defaultRelayPack
  offsetPayloadLen := 6
  calOverrideCell := (.ch1, .v1)

/-- The opcode bytes of a parameter set (00_scope.md R9). -/
def opcodes (p : Params) : List Byte :=
  [p.opcVoltage, p.opcTrigin, p.opcChannels, p.opcRamlen, p.opcSamplerate, p.opcTriglen, p.opcFilter,
    p.opcCapstart, p.opcTrigen, p.opcForcetrig, p.opcQuerystate, p.opcGetdata]

/-- A list of bytes without a repeat. -/
def allDistinct : List Byte → Bool
  | [] => true
  | b :: bs => !bs.contains b && allDistinct bs

/-- A model instance is well-formed: the OPC_* are pairwise distinct (30_encoding.md R73) and
OFFSET_PAYLOAD_LEN is at least 6 (00_scope.md R11). -/
def instanceOk (p : Params) : Bool := allDistinct (opcodes p) && decide (6 ≤ p.offsetPayloadLen)

end Sys2Proof.Machine
end

