-- ==== Sys2Proof/Machine/Commands.lean ====
section
/-! DEFINITION. What REGENC emits, for any parameters: the transfers of spec/30_encoding.md R72 to R85,
the relay mask (spec/43_config_translator.md R135), the trigger-length window (R141 to R147), the offset
words (R150 to R153), and the action lists of the emitting operations. -/

namespace Sys2Proof.Machine

/-! ## Payloads -/

/-- BEGIN's constant payload (30_encoding.md R74). -/
def beginPayload : List Byte := [0x0F, 0x03, 0x03, 0x03, 0x00, 0x00, 0x00, 0x00, 0x00, 0x00]

/-- BEGIN (30_encoding.md R74). -/
def beginTransfer (p : Params) : Transfer := .controlOut p.reqBegin p.ctlValue p.ctlIndex beginPayload

/-- RELAYS (30_encoding.md R75). -/
def relaysTransfer (p : Params) (mask : RelayMask) : Transfer :=
  .controlOut p.reqRelays p.ctlValue p.ctlIndex mask.toList

/-- OFFSETS: three big-endian words, then zero bytes (30_encoding.md R76). -/
def offsetsTransfer (p : Params) (w0 w1 wt : HalfWord) : Transfer :=
  .controlOut p.reqOffsets p.ctlValue p.ctlIndex
    (be16 w0 ++ be16 w1 ++ be16 wt ++ zeros (p.offsetPayloadLen - 6))

/-- SET_VOLTAGE (30_encoding.md R78). -/
def setVoltage (p : Params) (r0 : Range) (cp0 : Coupling) (r1 : Range) (cp1 : Coupling) : List Byte :=
  p.opcVoltage :: p.layoutVoltage r0 cp0 r1 cp1

/-- SET_TRIGIN (30_encoding.md R79). -/
def setTrigin (p : Params) (src : TrigSource) (slope : Slope) : List Byte := p.opcTrigin :: p.layoutTrigin src slope

/-- SET_CHANNELS (30_encoding.md R80). -/
def setChannels (p : Params) (sel : ChanSel) : List Byte := p.opcChannels :: p.layoutChannels sel

/-- SET_RAMLEN (30_encoding.md R81). -/
def setRamlen (p : Params) (dl : DataLength) : List Byte := p.opcRamlen :: p.layoutRamlen dl

/-- SET_SAMPLERATE for a staircase code (30_encoding.md R82, 42_sample_clock.md R125). -/
def setSamplerate (p : Params) (code : BitVec 4) : List Byte :=
  p.opcSamplerate :: p.layoutSamplerate (fastSel code) (slowSel code) (divider code)

/-- SET_FILTER (30_encoding.md R84). -/
def setFilter (p : Params) : List Byte := p.opcFilter :: p.filterPayload

/-- A capture-control command (30_encoding.md R85). -/
def captureCommand (p : Params) (opc : Byte) : List Byte := opc :: p.layoutCapctl

/-! ## Relay mask (43_config_translator.md R135) -/

/-- The mask that the relay inputs give (43_config_translator.md R135, R137). -/
def relayMask (p : Params) (r0 : Range) (cp0 : Coupling) (r1 : Range) (cp1 : Coupling) (src : TrigSource) : RelayMask :=
  p.relayPack (p.rangeRelay r0).1 (p.rangeRelay r0).2 (p.couplingRelay cp0)
    (p.rangeRelay r1).1 (p.rangeRelay r1).2 (p.couplingRelay cp1) (src == .ext)

/-! ## Trigger-length window (43_config_translator.md R141 to R147) -/

/-- TOTAL(dl) (41_command_encoder.md R113). -/
def totalSamples : DataLength → Nat
  | .small => 10240
  | .large => 0x80000

/-- The sample count of a trigger address, clamped to [1, 98] (43_config_translator.md R141, R142). -/
def windowSamples (dl : DataLength) (ta : Rat) : Int :=
  ((totalSamples dl : Rat) * clampRat 1 98 ta / 100).floor

/-- The lower bound, before the mask (43_config_translator.md R145). -/
def windowLowRaw (dl : DataLength) (ta : Rat) : Int := 0x7FFFF - totalSamples dl + windowSamples dl ta

/-- The upper bound, before the mask (43_config_translator.md R145). -/
def windowHighRaw (dl : DataLength) (ta : Rat) : Int := 0x7FFFF - windowSamples dl ta

/-- `low`, masked to 19 bits (43_config_translator.md R145, R147). -/
def windowLow (dl : DataLength) (ta : Rat) : BitVec 19 := BitVec.ofInt 19 (windowLowRaw dl ta)

/-- `high`, masked to 19 bits (43_config_translator.md R145, R147). -/
def windowHigh (dl : DataLength) (ta : Rat) : BitVec 19 := BitVec.ofInt 19 (windowHighRaw dl ta)

/-- SET_TRIGLEN: the head, then `low`, then `high` (30_encoding.md R77, R83). -/
def setTriglen (p : Params) (dl : DataLength) (ta : Rat) : List Byte :=
  p.opcTriglen :: (p.layoutTriglenHdr ++ le32 ((windowLow dl ta).setWidth 32) ++ le32 ((windowHigh dl ta).setWidth 32))

/-! ## DAC offsets (43_config_translator.md R148 to R154) -/

/-- CAL[c][r] of one channel (10_state.md R23). -/
def calRowGet (row : CalRow) : Range → CalPair
  | .v5 => row.v5
  | .v2 => row.v2
  | .v1 => row.v1
  | .mv500 => row.mv500
  | .mv200 => row.mv200
  | .mv100 => row.mv100
  | .mv50 => row.mv50
  | .mv20 => row.mv20
  | .mv10 => row.mv10

/-- CAL[c][r] (10_state.md R23). -/
def calGet (cal : CalFile) : Channel → Range → CalPair
  | .ch1, r => calRowGet cal.ch1 r
  | .ch2, r => calRowGet cal.ch2 r

/-- A channel's entries with the entry of one range replaced. -/
def calRowSet (row : CalRow) (r : Range) (v : CalPair) : CalRow :=
  match r with
  | .v5 => { row with v5 := v }
  | .v2 => { row with v2 := v }
  | .v1 => { row with v1 := v }
  | .mv500 => { row with mv500 := v }
  | .mv200 => { row with mv200 := v }
  | .mv100 => { row with mv100 := v }
  | .mv50 => { row with mv50 := v }
  | .mv20 => { row with mv20 := v }
  | .mv10 => { row with mv10 := v }

/-- `CAL[c][r] <- v` (40_calibration.md R90). -/
def calSet (cal : CalFile) (c : Channel) (r : Range) (v : CalPair) : CalFile :=
  match c with
  | .ch1 => { cal with ch1 := calRowSet cal.ch1 r v }
  | .ch2 => { cal with ch2 := calRowSet cal.ch2 r v }

/-- ChanDac: the calibrated value, between the pair's two levels for an offset in [0, 1]
(43_config_translator.md R151). -/
def chanDac (pair : CalPair) (off : Rat) : Int :=
  roundHalfUp (off * ((pair.max.toNat : Rat) - (pair.min.toNat : Rat)) + (pair.min.toNat : Rat))

/-- TrigDac: 0x7F for ALT and EXT, else the rounded and clamped value (43_config_translator.md R150). -/
def trigDac (src : TrigSource) (toff : Rat) : Int :=
  match src with
  | .ch1 => clampInt 0 0xFD (roundHalfUp (toff * 0xFD))
  | .ch2 => clampInt 0 0xFD (roundHalfUp (toff * 0xFD))
  | .alt => 0x7F
  | .ext => 0x7F

/-- `(v | 0x2000) & 0xFFFF` (43_config_translator.md R153). -/
def offsetWord (v : Int) : HalfWord := BitVec.ofInt 16 v ||| 0x2000

/-- The OFFSETS transfer of a calibration file and the offset operands (43_config_translator.md R152). -/
def offsetsOf (p : Params) (cal : CalFile) (r0 : Range) (off0 : Rat) (r1 : Range) (off1 : Rat)
    (src : TrigSource) (toff : Rat) : Transfer :=
  offsetsTransfer p (offsetWord (chanDac (calGet cal .ch1 r0) off0)) (offsetWord (chanDac (calGet cal .ch2 r1) off1))
    (offsetWord (trigDac src toff))

/-! ## Action lists -/

/-- EmitDeviceCommand(b): BEGIN, then the bulk write (41_command_encoder.md R100), whose success has an effect. -/
def deviceCommand (p : Params) (b : List Byte) (eff : Effect) : List Action :=
  [.xfer .beginCmd (beginTransfer p) .none, .xfer .bulk (.bulkOut p.epBulkOut b) eff]

/-- The sample-rate command, whose success writes the sample-clock register (42_sample_clock.md R124, R129). -/
def rateCommand (p : Params) (code : BitVec 4) : List Action :=
  deviceCommand p (setSamplerate p code) (.sampleT code)

/-- The nine steps of APPLY in their order, with the sequencer (43_config_translator.md R160). -/
def applySteps (p : Params) (cal : CalFile) (cfg : InstrumentConfig) (code : BitVec 4) : List Action :=
  .seq 1 :: deviceCommand p (setVoltage p cfg.ch0.range cfg.ch0.coupling cfg.ch1.range cfg.ch1.coupling) .none ++
  (.seq 2 :: .relays (relayMask p cfg.ch0.range cfg.ch0.coupling cfg.ch1.range cfg.ch1.coupling cfg.trigger.source) ::
  .seq 3 :: deviceCommand p (setTrigin p cfg.trigger.source cfg.trigger.slope) .none ++
  (.seq 4 :: deviceCommand p (setChannels p cfg.channelSelect) .none ++
  (.seq 5 :: deviceCommand p (setRamlen p cfg.dataLength) .none ++
  (.seq 6 :: rateCommand p code ++
  (.seq 7 :: deviceCommand p (setTriglen p cfg.dataLength cfg.triggerAddress) .none ++
  (.seq 8 :: deviceCommand p (setFilter p) .none ++
  (.seq 9 :: .xfer .offsets (offsetsOf p cal cfg.ch0.range cfg.ch0.offset cfg.ch1.range cfg.ch1.offset
      cfg.trigger.source cfg.trigger.offset) .none ::
  [.seq 0])))))))

/-! ## Frame headers and body (45_frame_assembler.md R190, R196, R199) -/

/-- `data[tp*2 .. end] ++ data[0 .. tp*2]`: the left rotation by `2 × tp` bytes (45_frame_assembler.md R190). -/
def rotateBlock (tp : Nat) (block : List Byte) : List Byte := block.drop (2 * tp) ++ block.take (2 * tp)

end Sys2Proof.Machine
end

