-- ==== Sys2Proof/Machine/Flags.lean ====
section
/-! DEFINITION. REGENC's flags (spec/10_state.md R30): it has no condition codes, only BUSY, CAL_VALID,
RELAY_VALID, SAMPLE_T_VALID and the fault state. Here are the writes that set a validity flag together
with the register it guards, and the range and state checks (spec/60_exceptions.md R213, step 3). -/

namespace Sys2Proof.Machine

/-- The fault state, FAULT_CODE ≠ 0 (10_state.md R30). -/
def faulted (s : State) : Bool := s.fault.code != 0

/-- REQ_READY = (BUSY = 0) (10_state.md R36). -/
def reqReady (s : State) : Bool := !s.busy

/-- REQ_VALID: a request is on the port (10_state.md R36). -/
def reqValid (s : State) : Bool := !s.reqs.isEmpty

/-- CAL and CAL_VALID are written together (40_calibration.md R90). -/
def writeCal (cal : CalFile) (s : State) : State := { s with cal := cal, calValid := true }

/-- RELAY_SHADOW and RELAY_VALID are written together (43_config_translator.md R137, R139). -/
def writeRelayShadow (mask : RelayMask) (s : State) : State := { s with relayShadow := mask, relayValid := true }

/-- SAMPLE_T_CODE and SAMPLE_T_VALID are written together (42_sample_clock.md R124, R129). -/
def writeSampleT (code : BitVec 4) (s : State) : State := { s with sampleTCode := code, sampleTValid := true }

/-- CFG is written whole (10_state.md R28). -/
def writeCfg (cfg : InstrumentConfig) (s : State) : State := { s with cfg := cfg }

/-- `seq <- k` (00_scope.md R15, 10_state.md R21). -/
def writeSeq (k : BitVec 4) (s : State) : State := { s with seq := k }

/-- The relay transfer is suppressed exactly when the shadow is valid and equal (43_config_translator.md R138). -/
def relaySuppressed (mask : RelayMask) (s : State) : Bool := s.relayValid && s.relayShadow == mask

/-- A check with the fault it raises. -/
def require (ok : Bool) (r : FaultReason) : Except FaultReason Unit := if ok then .ok () else .error r

/-- CAL_VALID = 1, else CAL_NOT_LOADED (10_state.md R24). -/
def requireCal (s : State) : Except FaultReason Unit := require s.calValid ⟨.calNotLoaded, 0⟩

/-- SAMPLE_T_VALID = 1, else SAMPLE_T_UNSET (10_state.md R27). -/
def requireSampleT (s : State) : Except FaultReason Unit := require s.sampleTValid ⟨.sampleTUnset, 0⟩

/-- A channel offset in [0, 1], else OFFSET_RANGE with the channel index (43_config_translator.md R149). -/
def requireOffset (channel : Word) (off : Rat) : Except FaultReason Unit :=
  require (decide (0 ≤ off ∧ off ≤ 1)) ⟨.offsetRange, channel⟩

/-- The code of a sample request, else SAMPLE_RANGE (42_sample_clock.md R126). -/
def requireRate (req : Rat) : Except FaultReason (BitVec 4) :=
  match quantize req with
  | some c => .ok c
  | none => .error ⟨.sampleRange, 0⟩

/-- A block of 20480 bytes, else BLOCK_LEN with L (45_frame_assembler.md R191). -/
def requireBlock (len : Word) : Except FaultReason Unit := require (len == 20480) ⟨.blockLen, len⟩

/-- A pointer below 10240, else TP_RANGE with tp (45_frame_assembler.md R192). -/
def requirePointer (tp : HalfWord) : Except FaultReason Unit :=
  require (decide (tp.toNat < 10240)) ⟨.tpRange, tp.setWidth 32⟩

end Sys2Proof.Machine
end

