-- ==== Sys2Proof/Machine/Ops.lean ====
section
/-! DEFINITION. The shared operations: the two buffers (spec/20_memory.md R45, R46), the beginning and
end of an operation, fault entry (spec/60_exceptions.md R215), reset, which is the only return from a
fault (R218; spec/70_reset_and_hazards.md R236), and emission (spec/41_command_encoder.md R100, R101). -/

namespace Sys2Proof.Machine

/-! ## The buffers -/

/-- The size of IBUF (20_memory.md R45). -/
def ibufSize : Nat := 20480

/-- The size of OBUF (20_memory.md R45). -/
def obufSize : Nat := 20512

/-- The cells of bytes that stand at rising addresses from `a`. -/
def Memory.cellsAt : Nat → List Byte → Memory
  | _, [] => []
  | a, b :: bs => (a, b) :: Memory.cellsAt (a + 1) bs

/-- The byte at an address; none where nothing has been written (log 12). -/
def Memory.byteAt (m : Memory) (a : Nat) : Option Byte := (m.find? (fun c => c.1 == a)).map (·.2)

/-- The bytes `bs` written at `a` onward: they replace what the addresses held (00_scope.md R15). -/
def Memory.write (m : Memory) (a : Nat) (bs : List Byte) : Memory :=
  m.filter (fun c => decide (c.1 < a)) ++ (Memory.cellsAt a bs ++ m.filter (fun c => decide (a + bs.length ≤ c.1)))

/-- The `n` bytes from `a`, if every one has a value. -/
def Memory.read (m : Memory) (a n : Nat) : Option (List Byte) :=
  let bs := (m.filter (fun c => decide (a ≤ c.1 ∧ c.1 < a + n))).map (·.2)
  if bs.length = n then some bs else none

/-- The addresses rise strictly. -/
def Memory.rising : Memory → Bool
  | [] => true
  | [_] => true
  | c :: d :: m => decide (c.1 < d.1) && Memory.rising (d :: m)

/-- The canonical form of a buffer of `size` bytes: strictly rising addresses below the size. An
unlisted address has no value, so no cell can equal what an unlisted address reads as (log 12). -/
def Memory.wf (size : Nat) (m : Memory) : Bool := Memory.rising m && m.all (fun c => decide (c.1 < size))

/-- `MemRead(addr, n)` of IBUF (00_scope.md R15). An address at or past 20480 does not exist
(20_memory.md R46). -/
def memRead (a n : Nat) (s : State) : Except Fault (List Byte) :=
  if a + n ≤ ibufSize then
    match Memory.read s.ibuf a n with
    | some bs => .ok bs
    | none => .error (.noValue a)
  else .error (.outsideIbuf a)

/-- `MemWrite(addr, n, v)` of OBUF (00_scope.md R15). An address at or past 20512 does not exist
(20_memory.md R46). -/
def memWrite (a : Nat) (bs : List Byte) (s : State) : Except Fault State :=
  if a + bs.length ≤ obufSize then .ok { s with obuf := Memory.write s.obuf a bs } else .error (.outsideObuf a)

/-- IBUF holds a block from its first byte on. -/
def withBlock (block : List Byte) (s : State) : State := { s with ibuf := Memory.cellsAt 0 block }

/-- A block operand is placed in IBUF (45_frame_assembler.md R190, R201; log 14). -/
def placeBlock (block : List Byte) (s : State) : Except Fault State :=
  if block.length ≤ ibufSize then .ok (withBlock block s) else .error (.outsideIbuf ibufSize)

/-! ## The course of an operation -/

/-- An operation is accepted: BUSY is 1, its transfer count starts at 0, and RES_VALID falls until the
result is posted (10_state.md R22, 41_command_encoder.md R101, 20_memory.md R56; log 7). -/
def startOp (op : Byte) (s : State) : State := { s with op := op, done := 0, busy := true, resValid := false }

/-- `return v`: the value is put on the result port and the operation ends (00_scope.md R15, 10_state.md R22). -/
def post (v : ResValue) (s : State) : State :=
  { s with resValid := true, resKind := .ok, resValue := v, busy := false, work := [] }

/-- The code of a fault (60_exceptions.md R210). -/
def FaultCode.code : FaultCode → BitVec 4
  | .transport => 1
  | .illegalOp => 2
  | .badOperand => 3
  | .calNotLoaded => 4
  | .sampleRange => 5
  | .sampleTUnset => 6
  | .offsetRange => 7
  | .tpRange => 8
  | .blockLen => 9

/-- The record that a fault writes (60_exceptions.md R215). -/
def faultRecord (r : FaultReason) (s : State) : FaultRecord :=
  ⟨FaultCode.code r.code, s.op, s.seq, BitVec.ofNat 8 s.done, r.info⟩

/-- `raise Fault(code, info)`, fault entry (60_exceptions.md R215). -/
def raise (r : FaultReason) (s : State) : State :=
  { s with
    fault := faultRecord r s
    seq := 0
    xferValid := false
    resValid := true
    resKind := .fault
    resValue := .record (faultRecord r s)
    busy := false
    work := [] }

/-- A request refused in the fault state: FAULTED with the current record, and nothing else changes
(60_exceptions.md R217). -/
def postFaulted (s : State) : State :=
  { s with resValid := true, resKind := .faulted, resValue := .record s.fault }

/-- `Reset()`: every register takes its reset value; what is outside the block stays: the requests the
host still offers, the input events still to come, and the record of what was sent
(70_reset_and_hazards.md R236, 60_exceptions.md R218). -/
def resetRegs (s : State) : State := { State.reset with reqs := s.reqs, pins := s.pins, sent := s.sent }

/-! ## The inputs RST, XFER_DONE and XFER_OK -/

/-- What a look at RST finds: it is asserted, or the block goes on; with the events that are left. -/
inductive Reading where
  | clear (rest : List Pin)
  | rst (rest : List Pin)
deriving DecidableEq, Repr

/-- One look at RST, which a `quiet` answers; with nothing to come, or an answer of the transport next, RST is
not asserted. The late completion of an abandoned transfer is ignored (10_state.md R39,
70_reset_and_hazards.md R238; logs 3, 4). -/
def reading : List Pin → Reading
  | [] => .clear []
  | .late _ :: ps => reading ps
  | .quiet :: ps => .clear ps
  | .done ok :: ps => .clear (.done ok :: ps)
  | .rst :: ps => .rst ps

/-- The block looks at RST before its next act at the ports: RST resets it (10_state.md R39), and what it was
doing is abandoned without a result (70_reset_and_hazards.md R238; log 3). -/
def unlessRst {α : Type} (abandoned go : State → α) (s : State) : α :=
  match reading s.pins with
  | .rst ps => abandoned (resetRegs { s with pins := ps })
  | .clear ps => go { s with pins := ps }

/-- What the inputs bring next to a block that waits for its transfer. -/
inductive Arrival where
  | nothing
  | done (ok : Bool) (rest : List Pin)
  | rst (rest : List Pin)
deriving DecidableEq, Repr

/-- The next event for a block that waits. After the completion the block looks at RST before it goes on, so
an RST that comes in between abandons the operation as well; the late completion of an abandoned transfer is
ignored (10_state.md R38, R39; 70_reset_and_hazards.md R238; logs 3, 4). -/
def arrival : List Pin → Arrival
  | [] => .nothing
  | .late _ :: ps => arrival ps
  | .quiet :: ps => arrival ps
  | .done ok :: ps =>
    match reading ps with
    | .clear rest => .done ok rest
    | .rst rest => .rst rest
  | .rst :: ps => .rst ps

/-! ## Operations -/

/-- An operation: it is accepted, RST may abandon it before anything of it shows, its checks run before any
emission or register write, the first that fails raises its fault, and then its body runs
(70_reset_and_hazards.md R238, 60_exceptions.md R213, 30_encoding.md R65). -/
def perform {α : Type} (op : Byte) (checks : State → Except FaultReason α)
    (body : α → State → Host.Outcome State Fault Refusal) (s : State) : Host.Outcome State Fault Refusal :=
  unlessRst .next (fun t =>
    match checks t with
    | .error r => .next (raise r t)
    | .ok a => body a t) (startOp op s)

/-- The outcome of a body that uses the buffers. -/
def settle : Except Fault State → Host.Outcome State Fault Refusal
  | .ok s => .next s
  | .error f => .fault f

/-! ## Emission -/

/-- `kind(x)` (41_command_encoder.md R101). -/
def XferKind.code : XferKind → Word
  | .beginCmd => 1
  | .relays => 2
  | .offsets => 3
  | .bulk => 4

/-- `XFER <- x; XFER_VALID <- 1` (41_command_encoder.md R101). -/
def offer (x : Transfer) (s : State) : State := { s with xferValid := true, xfer := x, sent := s.sent ++ [x] }

/-- The register write of a transfer's success (43_config_translator.md R139, 42_sample_clock.md R129). -/
def applyEffect : Effect → State → State
  | .none, s => s
  | .relayShadow mask, s => writeRelayShadow mask s
  | .sampleT code, s => writeSampleT code s

/-- XFER_DONE with XFER_OK = 1: `XFER_VALID <- 0`, the count goes up, and the command's register is
written (41_command_encoder.md R101). -/
def complete (eff : Effect) (ps : List Pin) (s : State) : State :=
  applyEffect eff { s with xferValid := false, done := s.done + 1, pins := ps }

/-- The wait for the transfer on offer (41_command_encoder.md R101, 10_state.md R38). With nothing to
come, the block stays busy with `pending` still to do (60_exceptions.md R222); success goes on with
`go`; XFER_OK = 0 raises TRANSPORT; RST abandons the operation (70_reset_and_hazards.md R238). -/
def await (kind : XferKind) (eff : Effect) (pending : List Action) (go : State → State) (s : State) : State :=
  match arrival s.pins with
  | .nothing => { s with work := pending }
  | .done true ps => go (complete eff ps s)
  | .done false ps => raise ⟨.transport, XferKind.code kind⟩ { s with pins := ps }
  | .rst ps => resetRegs { s with pins := ps }

/-- The actions of an operation, in order, as far as the transport answers; at their end the result is
OK(done) (41_command_encoder.md R101, R103; log 1). -/
def run : List Action → State → State
  | [], s => post (.count s.done) s
  | .seq k :: w, s => run w (writeSeq k s)
  | .xfer kind x eff :: w, s => await kind eff (.xfer kind x eff :: w) (fun t => run w t) (offer x s)
  | .relays mask :: w, s =>
    if relaySuppressed mask s then run w s
    else
      await .relays (.relayShadow mask)
        (.xfer .relays (relaysTransfer params mask) (.relayShadow mask) :: w) (fun t => run w t)
        (offer (relaysTransfer params mask) s)

/-- An operation in progress goes on where it waits: its transfer is already on offer (10_state.md R38). -/
def resume (s : State) : State :=
  match s.work with
  | .xfer kind x eff :: w => await kind eff (.xfer kind x eff :: w) (fun t => run w t) s
  | w => run w s

/-- The body of an emitting operation. -/
def emit (w : List Action) (s : State) : Host.Outcome State Fault Refusal := .next (run w s)

/-- An operation without checks. -/
def noChecks (_ : State) : Except FaultReason Unit := .ok ()

end Sys2Proof.Machine
end

