-- ==== Sys2Proof/Machine/Calibration.lean ====
section
/-! DEFINITION. The calibration operations (spec/40_calibration.md). -/

namespace Sys2Proof.Machine

/-- The loaded file with the override entry in its cell (40_calibration.md R90, R91). -/
def overridden (p : Params) (lv : CalFile) : CalFile :=
  calSet lv p.calOverrideCell.1 p.calOverrideCell.2 Config.calOverride

/-- CAL_LOAD (40_calibration.md R90, R92). -/
def execCalLoad (lv : CalFile) (s : State) : Host.Outcome State Fault Refusal :=
  perform 0x01 noChecks (fun _ t => .next (post (.count 0) (writeCal (overridden params lv) t))) s

/-- CAL_LOOKUP (40_calibration.md R94). -/
def execCalLookup (c r : Byte) (s : State) : Host.Outcome State Fault Refusal :=
  perform 0x02
    (fun t => do
      let cell ← lookupOperands c r
      requireCal t
      pure cell)
    (fun cell t => .next (post (.pair (calGet t.cal cell.1 cell.2)) t)) s

end Sys2Proof.Machine
end

