-- ==== Sys2Proof/Machine/Capture.lean ====
section
/-! DEFINITION. The capture-control commands and the capture-state decoder (spec/44_capture_control.md). -/

namespace Sys2Proof.Machine

/-- A capture-control command: BEGIN and a constant bulk write (44_capture_control.md R170). -/
def captureOp (op opc : Byte) (s : State) : Host.Outcome State Fault Refusal :=
  perform op noChecks (fun _ => emit (deviceCommand params (captureCommand params opc) .none)) s

/-- CAP_START (44_capture_control.md R171). -/
def execCapStart (s : State) : Host.Outcome State Fault Refusal := captureOp 0x20 params.opcCapstart s

/-- CAP_TRIGEN (44_capture_control.md R172). -/
def execCapTrigen (s : State) : Host.Outcome State Fault Refusal := captureOp 0x21 params.opcTrigen s

/-- CAP_FORCETRIG (44_capture_control.md R173). -/
def execCapForcetrig (s : State) : Host.Outcome State Fault Refusal := captureOp 0x22 params.opcForcetrig s

/-- CAP_QUERYSTATE (44_capture_control.md R174). -/
def execCapQuerystate (s : State) : Host.Outcome State Fault Refusal := captureOp 0x23 params.opcQuerystate s

/-- CAP_GETDATA (44_capture_control.md R175). -/
def execCapGetdata (s : State) : Host.Outcome State Fault Refusal := captureOp 0x24 params.opcGetdata s

/-- The capture state a value stands for (44_capture_control.md R177). -/
def captureState (v : Word) : CapState :=
  if v = 0 then .waiting else if v = 1 then .capturing else if v = 3 then .ready else .unknown

/-- The result code of a capture state (44_capture_control.md R177). -/
def CapState.code : CapState → Byte
  | .waiting => 0
  | .capturing => 1
  | .ready => 3
  | .unknown => 0xFF

/-- DECODE_CAPSTATE (44_capture_control.md R177, R178). -/
def execDecodeCapstate (v : Word) (s : State) : Host.Outcome State Fault Refusal :=
  perform 0x28 noChecks (fun _ t => .next (post (.capState (captureState v) v) t)) s

end Sys2Proof.Machine
end

