-- ==== Sys2Proof/Machine/Encoder.lean ====
section
/-! DEFINITION. The configuration encoders of spec/41_command_encoder.md. -/

namespace Sys2Proof.Machine

/-- ENC_VOLTAGE (41_command_encoder.md R105). -/
def execEncVoltage (r0 cp0 r1 cp1 : Byte) (s : State) : Host.Outcome State Fault Refusal :=
  perform 0x10 (fun _ => voltageOperands r0 cp0 r1 cp1)
    (fun v => emit (deviceCommand params (setVoltage params v.1 v.2.1 v.2.2.1 v.2.2.2) .none)) s

/-- ENC_TRIGIN (41_command_encoder.md R108). -/
def execEncTrigin (src slope : Byte) (s : State) : Host.Outcome State Fault Refusal :=
  perform 0x12 (fun _ => triginOperands src slope)
    (fun v => emit (deviceCommand params (setTrigin params v.1 v.2) .none)) s

/-- ENC_CHANNELS (41_command_encoder.md R110). -/
def execEncChannels (sel : Byte) (s : State) : Host.Outcome State Fault Refusal :=
  perform 0x13 (fun _ => channelsOperand sel)
    (fun v => emit (deviceCommand params (setChannels params v) .none)) s

/-- ENC_RAMLEN (41_command_encoder.md R112). -/
def execEncRamlen (dl : Byte) (s : State) : Host.Outcome State Fault Refusal :=
  perform 0x14 (fun _ => ramlenOperand dl)
    (fun v => emit (deviceCommand params (setRamlen params v) .none)) s

/-- ENC_FILTER (41_command_encoder.md R114). -/
def execEncFilter (s : State) : Host.Outcome State Fault Refusal :=
  perform 0x17 noChecks (fun _ => emit (deviceCommand params (setFilter params) .none)) s

end Sys2Proof.Machine
end

