-- ==== Sys2Proof/Machine/Frame.lean ====
section
/-! DEFINITION. The frame assembler (spec/45_frame_assembler.md). -/

namespace Sys2Proof.Machine

/-- DECODE_TP (45_frame_assembler.md R186). -/
def execDecodeTp (p : Word) (s : State) : Host.Outcome State Fault Refusal :=
  perform 0x30 (fun _ => pointerOperand p) (fun v t => .next (post (.pointer (tpTransform v)) t)) s

/-- UNWRAP's body: the block goes to IBUF, and OBUF from 32 on takes it rotated left by `2 × tp` bytes
(45_frame_assembler.md R190). -/
def unwrapBody (tp : HalfWord) (block : List Byte) (s : State) : Except Fault State := do
  let t ← placeBlock block s
  let raw ← memRead 0 20480 t
  memWrite 32 (rotateBlock tp.toNat raw) t

/-- UNWRAP (45_frame_assembler.md R190, R191, R192). -/
def execUnwrap (tp : HalfWord) (len : Word) (block : List Byte) (s : State) : Host.Outcome State Fault Refusal :=
  perform 0x31
    (fun _ => do
      requireBlock len
      requirePointer tp)
    (fun _ t => settle (do
      let u ← unwrapBody tp block t
      pure (post (.count 20480) u))) s

/-- BUILD_DATA_HEADER's writes (45_frame_assembler.md R196). -/
def dataHeaderBody (s : State) : Except Fault State := do
  let s ← memWrite 0 (le16 1) s
  let s ← memWrite 2 (le16 32) s
  let s ← memWrite 4 (le32 (f32 s.cfg.timeBase.val)) s
  let s ← memWrite 8 (le32 (f32 (stair s.sampleTCode))) s
  memWrite 12 (zeros 20) s

/-- BUILD_DATA_HEADER (45_frame_assembler.md R196). -/
def execBuildDataHeader (s : State) : Host.Outcome State Fault Refusal :=
  perform 0x32 requireSampleT
    (fun _ t => settle (do
      let u ← dataHeaderBody t
      pure (post (.count 32) u))) s

/-- BUILD_STOPPED_FRAME's writes (45_frame_assembler.md R199). -/
def stoppedHeaderBody (s : State) : Except Fault State := do
  let s ← memWrite 0 (le16 2) s
  let s ← memWrite 2 (le16 32) s
  memWrite 4 (zeros 28) s

/-- BUILD_STOPPED_FRAME (45_frame_assembler.md R199). -/
def execBuildStoppedFrame (s : State) : Host.Outcome State Fault Refusal :=
  perform 0x33 noChecks
    (fun _ t => settle (do
      let u ← stoppedHeaderBody t
      pure (post (.count 32) u))) s

/-- ASSEMBLE_FRAME (45_frame_assembler.md R201). -/
def execAssembleFrame (p : Word) (len : Word) (block : List Byte) (s : State) : Host.Outcome State Fault Refusal :=
  perform 0x34
    (fun t => do
      let v ← pointerOperand p
      requireBlock len
      requirePointer (tpTransform v)
      requireSampleT t
      pure (tpTransform v))
    (fun tp t => settle (do
      let t ← dataHeaderBody t
      let t ← unwrapBody tp block t
      pure (post (.frame 20512 tp) t))) s

end Sys2Proof.Machine
end

