-- ==== Sys2Proof/Machine/Reset.lean ====
section
/-! DEFINITION. The RESET operation (spec/70_reset_and_hazards.md R237), the way out of the fault state
(spec/60_exceptions.md R218). -/

namespace Sys2Proof.Machine

/-- RESET: `Reset()`, then OK(0) is posted; RST may abandon it like any operation (70_reset_and_hazards.md
R237, R238). -/
def execReset (s : State) : Host.Outcome State Fault Refusal :=
  unlessRst .next (fun t => .next (post (.count 0) (resetRegs t))) s

end Sys2Proof.Machine
end

