-- ==== Sys2Proof/Machine/SampleClock.lean ====
section
/-! DEFINITION. The sample-rate quantizer (spec/42_sample_clock.md). -/

namespace Sys2Proof.Machine

/-- QUANT_SAMPLERATE (42_sample_clock.md R124). -/
def execQuantSamplerate (req : QOperand) (s : State) : Host.Outcome State Fault Refusal :=
  perform 0x15
    (fun _ => do
      let v ← rateOperand req
      requireRate v)
    (fun code => emit (rateCommand params code)) s

end Sys2Proof.Machine
end

