-- ==== Sys2Proof/Machine/Translator.lean ====
section
/-! DEFINITION. The configuration translator (spec/43_config_translator.md). -/

namespace Sys2Proof.Machine

/-- ENC_RELAYS (43_config_translator.md R137). -/
def execEncRelays (r0 cp0 r1 cp1 src : Byte) (s : State) : Host.Outcome State Fault Refusal :=
  perform 0x11 (fun _ => relayOperands r0 cp0 r1 cp1 src)
    (fun v => emit [.relays (relayMask params v.1 v.2.1 v.2.2.1 v.2.2.2.1 v.2.2.2.2)]) s

/-- ENC_TRIGLEN (43_config_translator.md R144). -/
def execEncTriglen (dl : Byte) (ta : QOperand) (s : State) : Host.Outcome State Fault Refusal :=
  perform 0x16 (fun _ => triglenOperands dl ta)
    (fun v => emit (deviceCommand params (setTriglen params v.1 v.2) .none)) s

/-- ENC_OFFSETS (43_config_translator.md R152). -/
def execEncOffsets (r0 : Byte) (off0 : QOperand) (r1 : Byte) (off1 : QOperand) (src : Byte) (toff : QOperand)
    (s : State) : Host.Outcome State Fault Refusal :=
  perform 0x18
    (fun t => do
      let v ← offsetOperands r0 off0 r1 off1 src toff
      requireOffset 0 v.off0
      requireOffset 1 v.off1
      requireCal t
      pure v)
    (fun v t => emit [.xfer .offsets (offsetsOf params t.cal v.r0 v.off0 v.r1 v.off1 v.src v.toff) .none] t) s

/-- `Validate(cfg)`: the operand checks, the offsets, CAL_VALID, the sample request, in this order; it
gives the configuration and the code its request selects (43_config_translator.md R161). -/
def validate (c : CfgOperand) (s : State) : Except FaultReason (InstrumentConfig × BitVec 4) := do
  let cfg ← configOperand c
  requireOffset 0 cfg.ch0.offset
  requireOffset 1 cfg.ch1.offset
  requireCal s
  let code ← requireRate (Config.tbToReq cfg.timeBase)
  pure (cfg, code)

/-- APPLY (43_config_translator.md R160). -/
def execApply (c : CfgOperand) (s : State) : Host.Outcome State Fault Refusal :=
  perform 0x1F (validate c) (fun v t => emit (applySteps params t.cal v.1 v.2) (writeCfg v.1 t)) s

/-- GET_CONFIG (43_config_translator.md R166). -/
def execGetConfig (s : State) : Host.Outcome State Fault Refusal :=
  perform 0x3E noChecks
    (fun _ t => .next (post (.config t.cfg t.sampleTValid (if t.sampleTValid then t.sampleTCode else 0)) t)) s

end Sys2Proof.Machine
end

