-- ==== Sys2Proof/Machine/Dispatch.lean ====
section
/-! DEFINITION. exec: one arm for each operation of spec/30_encoding.md R62. -/

namespace Sys2Proof.Machine

def exec (i : Instr) (s : State) : Host.Outcome State Fault Refusal :=
  match i with
  | .calLoad lv => Sys2Proof.Machine.execCalLoad lv s
  | .calLookup c r => Sys2Proof.Machine.execCalLookup c r s
  | .encVoltage r0 cp0 r1 cp1 => Sys2Proof.Machine.execEncVoltage r0 cp0 r1 cp1 s
  | .encRelays r0 cp0 r1 cp1 src => Sys2Proof.Machine.execEncRelays r0 cp0 r1 cp1 src s
  | .encTrigin src slope => Sys2Proof.Machine.execEncTrigin src slope s
  | .encChannels sel => Sys2Proof.Machine.execEncChannels sel s
  | .encRamlen dl => Sys2Proof.Machine.execEncRamlen dl s
  | .quantSamplerate req => Sys2Proof.Machine.execQuantSamplerate req s
  | .encTriglen dl ta => Sys2Proof.Machine.execEncTriglen dl ta s
  | .encFilter => Sys2Proof.Machine.execEncFilter s
  | .encOffsets r0 off0 r1 off1 src toff => Sys2Proof.Machine.execEncOffsets r0 off0 r1 off1 src toff s
  | .apply cfg => Sys2Proof.Machine.execApply cfg s
  | .capStart => Sys2Proof.Machine.execCapStart s
  | .capTrigen => Sys2Proof.Machine.execCapTrigen s
  | .capForcetrig => Sys2Proof.Machine.execCapForcetrig s
  | .capQuerystate => Sys2Proof.Machine.execCapQuerystate s
  | .capGetdata => Sys2Proof.Machine.execCapGetdata s
  | .decodeCapstate v => Sys2Proof.Machine.execDecodeCapstate v s
  | .decodeTp p => Sys2Proof.Machine.execDecodeTp p s
  | .unwrap tp len block => Sys2Proof.Machine.execUnwrap tp len block s
  | .buildDataHeader => Sys2Proof.Machine.execBuildDataHeader s
  | .buildStoppedFrame => Sys2Proof.Machine.execBuildStoppedFrame s
  | .assembleFrame p len block => Sys2Proof.Machine.execAssembleFrame p len block s
  | .getConfig => Sys2Proof.Machine.execGetConfig s
  | .reset => Sys2Proof.Machine.execReset s

end Sys2Proof.Machine
end

