-- ==== Sys2Proof/Machine/Handshake.lean ====
section
/-! DEFINITION. The request handshake (spec/10_state.md R35, R36, R39): what a step finds on the ports.
An idle block takes the request on the port; a busy block goes on with its operation, and the request
is held; a faulted block refuses every request but RESET; RST resets at any time. -/

namespace Sys2Proof.Machine

/-- What a step does: all of it is settled at the ports, or an accepted instruction runs from a state. -/
inductive Fetched where
  | settled (o : Host.Outcome State Fault Refusal)
  | instruction (i : Instr) (s : State)

/-- A request is taken from the port by an idle block. In the fault state every request but RESET is
refused (60_exceptions.md R217); a reserved OPSEL raises ILLEGAL_OP before any operand is read
(30_encoding.md R63, 60_exceptions.md R213). Both answers may be abandoned by RST (70_reset_and_hazards.md R238). -/
def accept (r : Request) (s : State) : Fetched :=
  if faulted s && r.opsel != 0x3F then .settled (unlessRst .next (fun t => .next (postFaulted t)) s)
  else
    match decode r with
    | .ok i => .instruction i s
    | .error (.reservedOpsel op) =>
      .settled (unlessRst .next (fun t => .next (raise ⟨.illegalOp, op.setWidth 32⟩ t)) (startOp op s))
    | .error (.malformedRecord op) => .settled (.refused (.malformedRequest op))

/-- The events without a completion at their head, which completes nothing where no transfer is on offer and no
request is left that could offer one (10_state.md R38; log 2). -/
def withoutStray : List Pin → List Pin
  | .done _ :: ps => ps
  | ps => ps

/-- An idle block takes the request on the port, and without one it keeps its state
(10_state.md R35, 60_exceptions.md R226). -/
def takeRequest (s : State) : Fetched :=
  match s.reqs with
  | [] => .settled (.next { s with pins := withoutStray s.pins })
  | r :: rs => accept r { s with reqs := rs }

/-- The ports at a step: an ill-formed instance is refused (30_encoding.md R73), RST acts at any time
(10_state.md R39), a busy block goes on, an idle one looks for a request (10_state.md R35). -/
def fetch (s : State) : Fetched :=
  if instanceOk params then
    if s.busy then
      match arrival s.pins with
      | .rst ps => .settled (.next (resetRegs { s with pins := ps }))
      | _ => .settled (.next (resume s))
    else unlessRst (fun t => .settled (.next t)) takeRequest s
  else .settled (.refused .illFormedInstance)

/-- The input events from the transport's next answer on: no reset comes before a request is taken. -/
def withoutReset : List Pin → List Pin
  | [] => []
  | .done ok :: ps => .done ok :: ps
  | .quiet :: ps => withoutReset ps
  | .late _ :: ps => withoutReset ps
  | .rst :: ps => withoutReset ps

/-- A request put first on the port of an idle block that is in no fault state, with no reset before it. -/
def offerRequest (r : Request) (s : State) : State :=
  { s with reqs := r :: s.reqs, busy := false, fault := .none, pins := withoutReset s.pins }

end Sys2Proof.Machine
end

