-- ==== Sys2Proof/Machine/Step.lean ====
section
/-! DEFINITION. One step of REGENC, and where a test places a request. -/

namespace Sys2Proof.Machine

/-- One step: what the ports settle, or the accepted instruction (10_state.md R35; log 1). -/
def step (s : State) : Host.Outcome State Fault Refusal :=
  match fetch s with
  | .settled o => o
  | .instruction i t => exec i t

/-- The state with the request whose bits are `w` on the request port, where the next step takes it. -/
def State.withFetchWord (s : State) (nbits w : Nat) : State := offerRequest (requestOfWord nbits w) s

end Sys2Proof.Machine
end

