-- ==== Sys2Proof/Safety.lean ====
section
/-! DEFINITION. The words the claims are stated in: what a run leaves behind, the operand ranges and the
emitted bytes written out from the spec a second time, the invariant of every step, and the duties of
the host that a list of requests can show. Nothing here is used by the machine. -/

namespace Sys2Proof.Machine

/-! ## What the transport answers -/

/-- The transport's answers to a block that waits are `bs`, no reset comes with them or between them, and `q`
is still to come. -/
def answered : List Bool → List Pin → List Pin → Prop
  | [], p, q => p = q
  | b :: bs, p, q => ∃ r, arrival p = .done b r ∧ answered bs r q

/-- From an operation's acceptance to its result no reset comes (10_state.md R39), the transport's answers are
`bs`, and `q` is still to come. -/
def answers (bs : List Bool) (p q : List Pin) : Prop := ∃ r, reading p = .clear r ∧ answered bs r q

/-! ## What an operation leaves behind -/

/-- An operation without a transfer ended with a value: only its own bookkeeping and the result port differ. -/
def ended (op : Byte) (v : ResValue) (s : State) : State :=
  { s with op := op, done := 0, busy := false, resValid := true, resKind := .ok, resValue := v, work := [] }

/-- An emitting operation ended with OK(done): it sent `xs`, then `x`, and `ps` is what the inputs still bring. -/
def emitted (op : Byte) (xs : List Transfer) (x : Transfer) (ps : List Pin) (s : State) : State :=
  { s with
    op := op
    done := xs.length + 1
    busy := false
    xferValid := false
    xfer := x
    sent := s.sent ++ (xs ++ [x])
    pins := ps
    resValid := true
    resKind := .ok
    resValue := .count (xs.length + 1)
    work := [] }

/-- An operation faulted before it emitted anything (60_exceptions.md R213, R215). -/
def refusedBy (op : Byte) (code : BitVec 4) (info : Word) (s : State) : State :=
  { s with
    op := op
    done := 0
    fault := ⟨code, op, s.seq, 0, info⟩
    seq := 0
    xferValid := false
    busy := false
    resValid := true
    resKind := .fault
    resValue := .record ⟨code, op, s.seq, 0, info⟩
    work := [] }

/-- An operation sent `xs` with success, then `x`, whose transfer failed: TRANSPORT with the kind of `x`
(41_command_encoder.md R101, 60_exceptions.md R215). -/
def brokenAt (op : Byte) (kind : Word) (xs : List Transfer) (x : Transfer) (ps : List Pin) (s : State) : State :=
  { s with
    op := op
    done := xs.length
    fault := ⟨1, op, s.seq, BitVec.ofNat 8 xs.length, kind⟩
    seq := 0
    xferValid := false
    xfer := x
    sent := s.sent ++ (xs ++ [x])
    pins := ps
    busy := false
    resValid := true
    resKind := .fault
    resValue := .record ⟨1, op, s.seq, BitVec.ofNat 8 xs.length, kind⟩
    work := [] }

/-- A state whose registers hold their reset values (10_state.md R40), the values the spec gives. -/
def hasResetValues (s : State) : Prop :=
  s.seq = 0 ∧ s.busy = false ∧ s.calValid = false ∧ s.relayValid = false ∧ s.sampleTValid = false ∧
    s.cfg = Config.cfgDefault ∧ s.fault.code = 0 ∧ s.fault.op = 0 ∧ s.fault.seq = 0 ∧ s.fault.xfer = 0 ∧
    s.fault.info = 0 ∧ s.xferValid = false

/-! ## The operand ranges of 30_encoding.md R65, R70, as numbers -/

/-- The value of a rational operand (30_encoding.md R71). -/
def qVal (q : QOperand) : Rat := (q.num.toInt : Rat) / (q.den.toNat : Rat)

/-- A rational that a Q operand can carry: its numerator is a signed and its denominator an unsigned number of 64
bits (30_encoding.md R71). -/
def fitsQ (q : Rat) : Prop := -2 ^ 63 ≤ q.num ∧ q.num < 2 ^ 63 ∧ q.den < 2 ^ 64

/-- The fields of an operation's record that R65 checks, each with its byte offset and whether it is good. -/
def operandFields : Instr → List (Nat × Bool)
  | .calLoad _ => []
  | .calLookup c r => [(0, decide (c.toNat ≤ 1)), (1, decide (r.toNat ≤ 8))]
  | .encVoltage r0 cp0 r1 cp1 =>
    [(0, decide (r0.toNat ≤ 8)), (1, decide (cp0.toNat ≤ 2)), (2, decide (r1.toNat ≤ 8)), (3, decide (cp1.toNat ≤ 2))]
  | .encRelays r0 cp0 r1 cp1 src =>
    [(0, decide (r0.toNat ≤ 8)), (1, decide (cp0.toNat ≤ 2)), (2, decide (r1.toNat ≤ 8)), (3, decide (cp1.toNat ≤ 2)),
      (4, decide (src.toNat ≤ 3))]
  | .encTrigin src slope => [(0, decide (src.toNat ≤ 3)), (1, decide (slope.toNat ≤ 1))]
  | .encChannels sel => [(0, decide (sel.toNat ≤ 2))]
  | .encRamlen dl => [(0, decide (dl.toNat = 1 ∨ dl.toNat = 2))]
  | .quantSamplerate req => [(0, decide (req.den.toNat ≠ 0))]
  | .encTriglen dl ta => [(0, decide (dl.toNat = 1 ∨ dl.toNat = 2)), (1, decide (ta.den.toNat ≠ 0))]
  | .encFilter => []
  | .encOffsets r0 off0 r1 off1 src toff =>
    [(0, decide (r0.toNat ≤ 8)), (1, decide (off0.den.toNat ≠ 0)), (17, decide (r1.toNat ≤ 8)),
      (18, decide (off1.den.toNat ≠ 0)), (34, decide (src.toNat ≤ 3)), (35, decide (toff.den.toNat ≠ 0))]
  | .apply c =>
    [(0, decide (c.r0.toNat ≤ 8)), (1, decide (c.cp0.toNat ≤ 2)), (2, decide (c.off0.den.toNat ≠ 0)),
      (18, decide (c.r1.toNat ≤ 8)), (19, decide (c.cp1.toNat ≤ 2)), (20, decide (c.off1.den.toNat ≠ 0)),
      (36, decide (c.src.toNat ≤ 3)), (37, decide (c.slope.toNat ≤ 1)), (38, decide (c.toff.den.toNat ≠ 0)),
      (54, decide (c.sel.toNat ≤ 2)), (55, decide (c.dl.toNat = 1 ∨ c.dl.toNat = 2)),
      (56, decide (c.tb.den.toNat ≠ 0 ∧ 0 < c.tb.num.toInt)), (72, decide (c.ta.den.toNat ≠ 0))]
  | .capStart => []
  | .capTrigen => []
  | .capForcetrig => []
  | .capQuerystate => []
  | .capGetdata => []
  | .decodeCapstate _ => []
  | .decodeTp p => [(0, decide (p.toNat < 2 ^ 18))]
  | .unwrap _ _ _ => []
  | .buildDataHeader => []
  | .buildStoppedFrame => []
  | .assembleFrame p _ _ => [(0, decide (p.toNat < 2 ^ 18))]
  | .getConfig => []
  | .reset => []

/-- The byte offset of the first bad field. -/
def firstBad : List (Nat × Bool) → Option Nat
  | [] => none
  | (off, good) :: fs => if good then firstBad fs else some off

/-- Every operand is inside its type (30_encoding.md R65). -/
def operandsGood (i : Instr) : Prop := firstBad (operandFields i) = none

/-- The serialized configuration `c` stands for `cfg`, field by field (30_encoding.md R64, R70, R71). -/
def denotes (c : CfgOperand) (cfg : InstrumentConfig) : Prop :=
  cfg.ch0.range.code = c.r0 ∧ cfg.ch0.coupling.code = c.cp0 ∧ cfg.ch0.offset = qVal c.off0 ∧
    cfg.ch1.range.code = c.r1 ∧ cfg.ch1.coupling.code = c.cp1 ∧ cfg.ch1.offset = qVal c.off1 ∧
    cfg.trigger.source.code = c.src ∧ cfg.trigger.slope.code = c.slope ∧ cfg.trigger.offset = qVal c.toff ∧
    cfg.channelSelect.code = c.sel ∧ cfg.dataLength.code = c.dl ∧ cfg.timeBase.val = qVal c.tb ∧
    cfg.triggerAddress = qVal c.ta

/-! ## The emitted transfers under the defaults, byte by byte (30_encoding.md R74 to R87) -/

/-- BEGIN (30_encoding.md R74, R87). -/
def beginBytes : Transfer := .controlOut 0xB3 0 0 [0x0F, 3, 3, 3, 0, 0, 0, 0, 0, 0]

/-- A bulk write (30_encoding.md R87). -/
def bulk (bs : List Byte) : Transfer := .bulkOut 0x02 bs

/-- The relay mask of raw operand codes (43_config_translator.md R136). -/
def maskBytes (r0 cp0 r1 cp1 src : Byte) : RelayMask :=
  let bit (b : Bool) : Byte := if b then 1 else 0
  #v[0, bit (decide (r0.toNat ≥ 3)), bit (decide (r0.toNat ≥ 6)), bit (decide (cp0.toNat = 1)),
    bit (decide (r1.toNat ≥ 3)), bit (decide (r1.toNat ≥ 6)), bit (decide (cp1.toNat = 1)),
    bit (decide (src.toNat = 3)), 0, 0, 0, 0, 0, 0, 0, 0, 0]

/-- RELAYS (30_encoding.md R75, R87). -/
def relaysBytes (mask : RelayMask) : Transfer := .controlOut 0xB5 0 0 mask.toList

/-- The high byte, then the low byte (30_encoding.md R76). -/
def bigEndian (w : HalfWord) : List Byte := [w.extractLsb' 8 8, w.extractLsb' 0 8]

/-- The four bytes of a number, the low one first (00_scope.md R14). -/
def littleEndian (w : Word) : List Byte :=
  [w.extractLsb' 0 8, w.extractLsb' 8 8, w.extractLsb' 16 8, w.extractLsb' 24 8]

/-- OFFSETS with the three values ORed with the bias (30_encoding.md R76, 43_config_translator.md R153). -/
def offsetsBytes (v0 v1 vt : Int) : Transfer :=
  .controlOut 0xB4 0 0 (bigEndian (BitVec.ofInt 16 v0 ||| 0x2000) ++ bigEndian (BitVec.ofInt 16 v1 ||| 0x2000) ++
    bigEndian (BitVec.ofInt 16 vt ||| 0x2000))

/-- The channel value of 43_config_translator.md R151. -/
def channelValue (pair : CalPair) (off : Rat) : Int :=
  ⌊off * ((pair.max.toNat : Rat) - pair.min.toNat) + pair.min.toNat + 1 / 2⌋

/-- The trigger value of 43_config_translator.md R150. -/
def triggerValue (src : Byte) (toff : Rat) : Int :=
  if src.toNat ≥ 2 then 0x7F else max 0 (min 0xFD ⌊toff * 0xFD + 1 / 2⌋)

/-- DIV of 42_sample_clock.md R130, row by row. -/
def dividerTable : List Nat :=
  [0x00001, 0x10000, 0x0FFFF, 0x0FFFD, 0x0FFF7, 0x0FFED, 0x0FFD9, 0x0FF9D, 0x0FF39, 0x0FE71, 0x0FC19, 0x0F831,
    0x0F061, 0x0D8F1, 0x0B1E1, 0x063C1]

/-- `FASTSEL | SLOWSEL << 1` of 42_sample_clock.md R130, row by row. -/
def rateFlagTable : List Byte := [1, 0, 2, 2, 0, 2, 2, 0, 2, 2, 0, 2, 2, 0, 2, 2]

/-- The nanoseconds of the staircase (10_state.md R26), row by row. -/
def stairNanoseconds : List Nat :=
  [8, 10, 20, 40, 100, 200, 400, 1000, 2000, 4000, 10000, 20000, 40000, 100000, 200000, 400000]

/-- SET_SAMPLERATE of a code (30_encoding.md R82, 42_sample_clock.md R130). -/
def rateBytes (code : BitVec 4) : List Byte :=
  [0x0E, 0, rateFlagTable.getD code.toNat 0, 0] ++
    littleEndian (BitVec.ofNat 32 (dividerTable.getD code.toNat 0))

/-- TOTAL(dl) of a code (41_command_encoder.md R113). -/
def totalOf (dl : Byte) : Int := if dl.toNat = 1 then 10240 else 524288

/-- The sample count of 43_config_translator.md R141, R142. -/
def samplesOf (dl : Byte) (ta : Rat) : Int := ⌊(totalOf dl : Rat) * max 1 (min 98 ta) / 100⌋

/-- SET_TRIGLEN (30_encoding.md R77, R83; 43_config_translator.md R145). -/
def triglenBytes (dl : Byte) (ta : Rat) : List Byte :=
  [0x0F, 0, 0, 0] ++ littleEndian (BitVec.ofInt 32 ((0x7FFFF - totalOf dl + samplesOf dl ta) % 2 ^ 19)) ++
    littleEndian (BitVec.ofInt 32 ((0x7FFFF - samplesOf dl ta) % 2 ^ 19))

/-- The relay mask of a configuration (43_config_translator.md R135, R160). -/
def cfgMask (cfg : InstrumentConfig) : RelayMask :=
  maskBytes cfg.ch0.range.code cfg.ch0.coupling.code cfg.ch1.range.code cfg.ch1.coupling.code cfg.trigger.source.code

/-- OFFSETS of a configuration (43_config_translator.md R152, R160). -/
def cfgOffsets (cal : CalFile) (cfg : InstrumentConfig) : Transfer :=
  offsetsBytes (channelValue (calGet cal .ch1 cfg.ch0.range) cfg.ch0.offset)
    (channelValue (calGet cal .ch2 cfg.ch1.range) cfg.ch1.offset)
    (triggerValue cfg.trigger.source.code cfg.trigger.offset)

/-- The transfers of an APPLY before OFFSETS, with or without RELAYS (43_config_translator.md R164). -/
def applyBefore (cfg : InstrumentConfig) (code : BitVec 4) (relays : Bool) : List Transfer :=
  [beginBytes, bulk [0x07, 0, cfg.ch0.range.code, cfg.ch0.coupling.code, cfg.ch1.range.code, cfg.ch1.coupling.code, 0, 0]] ++
    (if relays then [relaysBytes (cfgMask cfg)] else []) ++
    [beginBytes, bulk [0x0C, 0, cfg.trigger.source.code, cfg.trigger.slope.code],
      beginBytes, bulk [0x0B, 0, cfg.channelSelect.code, 0],
      beginBytes, bulk [0x0D, 0, cfg.dataLength.code, 0],
      beginBytes, bulk (rateBytes code),
      beginBytes, bulk (triglenBytes cfg.dataLength.code cfg.triggerAddress),
      beginBytes, bulk [0x00, 0, 0, 0]]

/-- The step of APPLY that each of its sixteen transfers belongs to (43_config_translator.md R160, R164). -/
def applyStepOf : List (BitVec 4) := [1, 1, 2, 3, 3, 4, 4, 5, 5, 6, 6, 7, 7, 8, 8, 9]

/-- The kind of each of its sixteen transfers (41_command_encoder.md R101). -/
def applyKindOf : List Word := [1, 4, 2, 1, 4, 1, 4, 1, 4, 1, 4, 1, 4, 1, 4, 3]

/-- Every transfer of an APPLY, in order (43_config_translator.md R164). -/
def applyAll (cal : CalFile) (cfg : InstrumentConfig) (code : BitVec 4) (relays : Bool) : List Transfer :=
  applyBefore cfg code relays ++ [cfgOffsets cal cfg]

/-- APPLY's relay transfer is not suppressed (43_config_translator.md R138). -/
def needsRelays (s : State) (cfg : InstrumentConfig) : Bool := !(s.relayValid && s.relayShadow == cfgMask cfg)

/-- The number of transfers of an APPLY (43_config_translator.md R164). -/
def applyCount (relays : Bool) : Nat := if relays then 16 else 15

/-- An entry for each of the transfers, without the third where RELAYS is suppressed. -/
def forTransfers {α : Type} (relays : Bool) (xs : List α) : List α := if relays then xs else xs.eraseIdx 2

/-- An APPLY has its operands inside their types, its channel offsets in [0, 1] and a calibration, and
`cfg` is what it asks for (43_config_translator.md R161, checks 1 to 3). -/
def applicable (c : CfgOperand) (cfg : InstrumentConfig) (s : State) : Prop :=
  operandsGood (.apply c) ∧ denotes c cfg ∧ 0 ≤ cfg.ch0.offset ∧ cfg.ch0.offset ≤ 1 ∧ 0 ≤ cfg.ch1.offset ∧
    cfg.ch1.offset ≤ 1 ∧ s.calValid = true

/-- The seconds of a staircase code (10_state.md R26). -/
def stepSeconds (code : BitVec 4) : Rat := (stairNanoseconds.getD code.toNat 0 : Nat) / 10 ^ 9

/-- `code` is the least step that is at least the request (42_sample_clock.md R127). -/
def selects (req : Rat) (code : BitVec 4) : Prop :=
  req ≤ stepSeconds code ∧ ∀ d : BitVec 4, req ≤ stepSeconds d → code.toNat ≤ d.toNat

/-- A bad operand of `i` is reported as BAD_OPERAND with the offset of the first bad field, and nothing else
happens (30_encoding.md R65, 60_exceptions.md R212). -/
def reportsBadOperand (i : Instr) : Prop :=
  ∀ (s : State) (ps : List Pin) (off : Nat), reading s.pins = .clear ps → firstBad (operandFields i) = some off →
    exec i s = .next (refusedBy i.opsel 3 (BitVec.ofNat 32 off) { s with pins := ps })

/-- The operation `i`, with OPSEL `op`, is one device command with the bulk payload `bs`
(41_command_encoder.md R100, R101, R103, R115): both transfers succeed, the first fails, the second
fails, or the first is not answered yet. -/
def isDeviceCommand (op : Byte) (i : Instr) (bs : List Byte) : Prop :=
  ∀ (s : State) (ps : List Pin),
    (answers [true, true] s.pins ps → exec i s = .next (emitted op [beginBytes] (bulk bs) ps s)) ∧
    (answers [false] s.pins ps → exec i s = .next (brokenAt op 1 [] beginBytes ps s)) ∧
    (answers [true, false] s.pins ps → exec i s = .next (brokenAt op 4 [beginBytes] (bulk bs) ps s)) ∧
    (reading s.pins = .clear ps → arrival ps = .nothing → ∃ w v, exec i s = .next { s with
      pins := ps, op := op, done := 0, busy := true, resValid := v, xferValid := true, xfer := beginBytes,
      sent := s.sent ++ [beginBytes], work := w })

/-- The operation checks its operands, and then it is one device command (41_command_encoder.md R104). -/
def isCheckedCommand (i : Instr) (bs : List Byte) : Prop :=
  (operandsGood i → isDeviceCommand i.opsel i bs) ∧ reportsBadOperand i

/-! ## The transfer stream -/

/-- The bulk commands' opcodes with the one length of each (30_encoding.md R73, R78 to R86). -/
def bulkLengths : List (Byte × Nat) :=
  [(0x07, 8), (0x0C, 4), (0x0B, 4), (0x0D, 4), (0x0E, 8), (0x0F, 12), (0x00, 4), (0x03, 2), (0x04, 2), (0x02, 2),
    (0x06, 2), (0x05, 2)]

/-- A transfer of one of the kinds of 30_encoding.md R72, with its fixed length (R73 to R76). -/
def knownTransfer : Transfer → Bool
  | .controlOut r v ix pay =>
    v == 0 && ix == 0 &&
      ((r == 0xB3 && pay == [0x0F, 3, 3, 3, 0, 0, 0, 0, 0, 0]) || (r == 0xB5 && pay.length == 17) ||
        (r == 0xB4 && pay.length == 6))
  | .bulkOut ep bs => ep == 0x02 && bulkLengths.contains (bs.headD 0, bs.length)

/-- BEGIN comes before each bulk write and before nothing else (41_command_encoder.md R102). The flag says
that a BEGIN has just come; a stream may end after one. -/
def beginsPaired : Bool → List Transfer → Bool
  | _, [] => true
  | afterBegin, .bulkOut _ _ :: xs => afterBegin && beginsPaired false xs
  | afterBegin, .controlOut r _ _ _ :: xs => !afterBegin && beginsPaired (r == 0xB3) xs

/-! ## Frames -/

/-- The data header's 32 bytes (30_encoding.md R88, 45_frame_assembler.md R196). -/
def dataHeader (timeBase sampleT : Rat) : List Byte :=
  [1, 0, 32, 0] ++ littleEndian (f32 timeBase) ++ littleEndian (f32 sampleT) ++ List.replicate 20 0

/-- The stopped frame's 32 bytes (45_frame_assembler.md R199). -/
def stoppedFrame : List Byte := [2, 0, 32, 0] ++ List.replicate 28 0

/-- Every byte of `m` in `[a, a + bs.length)` is that of `bs`, and every other byte is as in `old`. -/
def holdsAt (m old : Memory) (a : Nat) (bs : List Byte) : Prop :=
  ∀ k, Memory.byteAt m k = if a ≤ k ∧ k < a + bs.length then bs[k - a]? else Memory.byteAt old k

/-- Byte `i` of the body is byte `(i + 2·tp) mod 20480` of the block (45_frame_assembler.md R190). -/
def unwrapped (tp : Nat) (block : List Byte) : List Byte :=
  (List.range 20480).map (fun i => block.getD ((i + 2 * tp) % 20480) 0)

/-- The XOR of bits 15 down to i (45_frame_assembler.md R188). -/
def xorDownTo (p : Word) (i : Nat) : Bool :=
  (List.range 16).foldl (fun b k => b ^^ (decide (i ≤ k) && p.getLsbD k)) false

/-- The value of a finite, non-negative binary32 pattern (45_frame_assembler.md R197). -/
def patternValue (p : Nat) : Rat :=
  if p < 2 ^ 23 then (p : Rat) / 2 ^ 149 else ((2 ^ 23 + p % 2 ^ 23 : Nat) : Rat) * 2 ^ (p / 2 ^ 23) / 2 ^ 150

/-! ## The invariant of every step -/

/-- The last sequencer value that the actions set, from the present one. -/
def finalSeq : List Action → BitVec 4 → BitVec 4
  | [], k => k
  | .seq j :: w, _ => finalSeq w j
  | .xfer _ _ _ :: w, k => finalSeq w k
  | .relays _ :: w, k => finalSeq w k

/-- Every sequencer value in the actions is one SEQ holds (10_state.md R21). -/
def seqsHeld : List Action → Bool
  | [] => true
  | .seq j :: w => decide (j.toNat ≤ 9) && seqsHeld w
  | .xfer _ _ _ :: w => seqsHeld w
  | .relays _ :: w => seqsHeld w

/-- The actions belong to an APPLY (10_state.md R21: no other operation writes SEQ). -/
def usesSeq : List Action → Bool
  | [] => false
  | .seq _ :: _ => true
  | .xfer _ _ _ :: w => usesSeq w
  | .relays _ :: w => usesSeq w

/-- A configuration that APPLY accepted (43_config_translator.md R161): its channel offsets lie in [0, 1], and
its sample request is not above 400 µs. That its time base is positive is said by its type (00_scope.md R19). -/
def accepted (cfg : InstrumentConfig) : Prop :=
  0 ≤ cfg.ch0.offset ∧ cfg.ch0.offset ≤ 1 ∧ 0 ≤ cfg.ch1.offset ∧ cfg.ch1.offset ≤ 1 ∧
    Config.tbToReq cfg.timeBase ≤ 400 / 10 ^ 6

/-- What every step keeps. -/
structure StateInv (s : State) : Prop where
  /-- SEQ is one of 0..9 (10_state.md R21, R32). -/
  seqHeld : s.seq.toNat ≤ 9
  /-- So are the values still to come. -/
  workHeld : seqsHeld s.work = true
  /-- An operation leaves SEQ at 0 (10_state.md R21). -/
  seqEnds : finalSeq s.work s.seq = 0
  /-- Only APPLY uses SEQ (10_state.md R21). -/
  seqOfApply : s.seq ≠ 0 ∨ usesSeq s.work = true → s.op = 0x1F
  /-- An idle block offers no transfer and has nothing left to do (10_state.md R22, R38). -/
  idle : s.busy = false → s.seq = 0 ∧ s.xferValid = false ∧ s.work = []
  /-- A busy block is in no fault state, and waits for the transfer it offers (10_state.md R35, R38). That
  RES_VALID is 0 meanwhile is the model's choice (log 7). -/
  waiting : s.busy = true → s.fault.code = 0 ∧ s.xferValid = true ∧ s.resValid = false ∧
    ∃ kind eff w, s.work = .xfer kind s.xfer eff :: w
  /-- FAULT_CODE is one of 0..9 (60_exceptions.md R210). -/
  codeHeld : s.fault.code.toNat ≤ 9
  /-- Without a fault the record is clear (10_state.md R29, R40). -/
  noFault : s.fault.code = 0 → s.fault = .none
  /-- FAULT_SEQ is 0 outside APPLY, and 0 but for TRANSPORT (10_state.md R29, 60_exceptions.md R213). -/
  faultSeq : s.fault.seq.toNat ≤ 9 ∧ (s.fault.seq ≠ 0 → s.fault.code = 1 ∧ s.fault.op = 0x1F)
  /-- IBUF keeps its canonical form (the model's, log 12) inside its 20480 bytes (20_memory.md R45, R46). -/
  ibufWf : Memory.wf 20480 s.ibuf = true
  /-- OBUF keeps its canonical form (the model's, log 12) inside its 20512 bytes (20_memory.md R45, R46). -/
  obufWf : Memory.wf 20512 s.obuf = true
  /-- CFG is CFG_DEFAULT or a configuration that APPLY accepted (10_state.md R28). -/
  cfgHeld : s.cfg = Config.cfgDefault ∨ accepted s.cfg

/-! ## Duties of the host that a list of requests shows (70_reset_and_hazards.md) -/

/-- A request that changes the sample rate (70_reset_and_hazards.md R250). -/
def changesRate : Instr → Bool
  | .quantSamplerate _ => true
  | .apply _ => true
  | _ => false

/-- No sample-rate change between a CAP_START and the ASSEMBLE_FRAME of its block
(70_reset_and_hazards.md R250); `open_` says that a capture has started. -/
def rateSteady : Bool → List Instr → Bool
  | _, [] => true
  | open_, i :: is =>
    !(open_ && changesRate i) &&
      rateSteady (match i with | .capStart => true | .assembleFrame _ _ _ => false | _ => open_) is

/-- The place of a single encoder in APPLY's order (70_reset_and_hazards.md R253). -/
def encoderRank : Instr → Option Nat
  | .encVoltage _ _ _ _ => some 1
  | .encRelays _ _ _ _ _ => some 2
  | .encTrigin _ _ => some 3
  | .encChannels _ => some 4
  | .encRamlen _ => some 5
  | .quantSamplerate _ => some 6
  | .encTriglen _ _ => some 7
  | .encFilter => some 8
  | .encOffsets _ _ _ _ _ _ => some 9
  | _ => none

/-- The single encoders stand in APPLY's order (70_reset_and_hazards.md R253), from the rank `k` on. -/
def inApplyOrder : Nat → List Instr → Bool
  | _, [] => true
  | k, i :: is =>
    match encoderRank i with
    | some n => decide (k ≤ n) && inApplyOrder n is
    | none => inApplyOrder k is

/-- The boot order: RESET, CAL_LOAD, APPLY come before any capture operation (70_reset_and_hazards.md R245). -/
def bootsInOrder : List Instr → Bool
  | .reset :: .calLoad _ :: .apply _ :: _ => true
  | _ => false

end Sys2Proof.Machine
end

