-- ==== Sys2Proof/Certificates/Slice0/Obligations.lean ====
section
/-! DEFINITION. The statements about REGENC that the provers are asked for. Each docstring names the rules
of spec/ that the statement formalises or rests on. Every hypothesis has a named witness in
Sys2Proof/Tests/Slice0.lean.

The premise `reading s.pins = .clear ps` says that no RST is asserted before the operation shows anything, and
`answers` that none is until its result; what RST does, at these places and at every other, is said by
RstResetsAtAnyTime and RstAbandonsOperation (10_state.md R39, 70_reset_and_hazards.md R238).

Which input events (`pins`) and which requests (`reqs`) a step leaves is the model's account of the ports
(logs 2 and 5), in every statement that speaks of them. -/

open Sys2Proof Sys2Proof.Machine

/-! ## Reset, the fault state and the handshake -/

/-- The reset values that the spec gives (10_state.md R40). -/
def Obligations.ResetGivesSpecValues : Prop :=
  hasResetValues State.reset ∧ State.reset.resValid = false

/-- The invariant holds at reset (10_state.md R40, R21, R45). -/
def Obligations.InvariantHoldsAtReset : Prop := StateInv State.reset

/-- Every step keeps the invariant: SEQ is 0..9 and 0 outside APPLY, an idle block offers no transfer, a
busy one is in no fault state and waits for the transfer it offers, the fault code is 0..9, a clear
record means no fault, both buffers keep their canonical form inside their sizes, and CFG is CFG_DEFAULT
or was accepted by APPLY (10_state.md R21, R22, R28, R29, R32, R35, R38; 20_memory.md R45, R46). Two clauses are
the model's choice: that RES_VALID is 0 in a busy block (log 7), and the form in which a buffer is kept (log
12). -/
def Obligations.StepKeepsInvariant : Prop :=
  ∀ s t : State, StateInv s → step s = .next t → StateInv t

/-- RESET resets every register, whatever the state, posts OK(0) after it and emits nothing
(70_reset_and_hazards.md R236, R237). The requests and input events to come and the record of what was
sent are outside the block. -/
def Obligations.ResetOperationResets : Prop :=
  ∀ (s : State) (ps : List Pin), reading s.pins = .clear ps → ∃ t, exec .reset s = .next t ∧ hasResetValues t ∧
    t.resValid = true ∧ t.resKind = .ok ∧ t.resValue = .count 0 ∧ t.sent = s.sent ∧ t.reqs = s.reqs ∧ t.pins = ps

/-- The RST input puts every register into its reset value, whatever the state: at an idle block before it takes
a request, which is so between any two operations, after it has taken one and before the result, and at a block
that waits for a transfer; no result is posted (10_state.md R39, 70_reset_and_hazards.md R235). No rule says whether
a request that the fault state refuses leaves the port: that it has left when RST comes (`t.reqs = rs`) is the
model's reading (log 29). -/
def Obligations.RstResetsAtAnyTime : Prop :=
  (∀ (s : State) (ps : List Pin),
    (s.busy = false ∧ reading s.pins = .rst ps) ∨ (s.busy = true ∧ arrival s.pins = .rst ps) →
    ∃ t, step s = .next t ∧ hasResetValues t ∧ t.resValid = false ∧ t.sent = s.sent ∧ t.reqs = s.reqs ∧ t.pins = ps) ∧
  (∀ (s : State) (ps qs : List Pin) (r : Request) (rs : List Request), s.busy = false →
    reading s.pins = .clear ps → reading ps = .rst qs → s.reqs = r :: rs →
    (∀ op, decode r ≠ .error (.malformedRecord op)) →
    ∃ t, step s = .next t ∧ hasResetValues t ∧ t.resValid = false ∧ t.sent = s.sent ∧ t.reqs = rs ∧ t.pins = qs)

/-- A step at an idle block runs the instruction that the request on the port decodes to; without a request
every register stays; a busy block goes on with its operation (10_state.md R35, 60_exceptions.md R226). Which
events are left is the model's choice (log 2), and so is that an idle block without a request drops a completion
that completes nothing (`withoutStray`). -/
def Obligations.StepRunsDecodedRequest : Prop :=
  (∀ (s : State) (ps : List Pin), s.busy = false → reading s.pins = .clear ps →
    (∀ r rs i, s.reqs = r :: rs → decode r = .ok i → (s.fault.code = 0 ∨ i = .reset) →
      step s = exec i { s with reqs := rs, pins := ps }) ∧
    (s.reqs = [] → step s = .next { s with pins := withoutStray ps })) ∧
  (∀ s : State, s.busy = true → (∀ ps, arrival s.pins ≠ .rst ps) → step s = .next (resume s))

/-- In the fault state every request but RESET is refused: only the result port changes, and it gives
FAULTED with the present record (60_exceptions.md R217). That the refused request leaves the port is the
model's choice (log 29), and that the block of a refused UNWRAP or ASSEMBLE_FRAME is not placed in IBUF is so too
(log 14). -/
def Obligations.FaultedBlockRefuses : Prop :=
  ∀ (s : State) (r : Request) (rs : List Request) (ps qs : List Pin), s.busy = false →
    reading s.pins = .clear ps → reading ps = .clear qs → s.fault.code ≠ 0 → s.reqs = r :: rs → r.opsel ≠ 0x3F →
    step s = .next { s with
      reqs := rs, pins := qs, resValid := true, resKind := .faulted, resValue := .record s.fault }

/-- Only RESET and RST lead out of the fault state: any other step keeps the record whole
(60_exceptions.md R218). -/
def Obligations.OnlyResetLeavesFault : Prop :=
  ∀ (s t : State) (ps qs : List Pin), StateInv s → s.fault.code ≠ 0 → step s = .next t →
    reading s.pins = .clear ps → reading ps = .clear qs → (∀ r rs, s.reqs = r :: rs → r.opsel ≠ 0x3F) →
    t.fault = s.fault

/-- A busy block takes no request: whatever the host offers is held (10_state.md R35). -/
def Obligations.BusyBlockHoldsRequests : Prop :=
  ∀ s t : State, s.busy = true → step s = .next t → t.reqs = s.reqs

/-- A transfer whose completion never comes leaves the block busy, with the transfer held on the port
(60_exceptions.md R222, 10_state.md R38). -/
def Obligations.WaitsForTheTransport : Prop :=
  ∀ s : State, StateInv s → s.busy = true → arrival s.pins = .nothing → step s = .next s

/-- The late completion of an abandoned transfer is ignored (70_reset_and_hazards.md R238): a block that
waits for another transfer goes on as if it had not come, and so does an idle block. How the block tells it from
the completion it waits for is the model's reading: it is an event of its own (log 4). -/
def Obligations.LateCompletionIgnored : Prop :=
  (∀ (s : State) (ok : Bool) (ps : List Pin), StateInv s → s.busy = true → arrival ps ≠ .nothing →
    step { s with pins := .late ok :: ps } = step { s with pins := ps }) ∧
  (∀ (s : State) (ok : Bool) (ps : List Pin), s.busy = false →
    step { s with pins := .late ok :: ps } = step { s with pins := ps })

/-- RST during an operation abandons it: before anything of it shows, while a transfer is outstanding, and after
a transfer's completion, with success or without, before the next act at the ports. No result is posted, what
was sent stays sent, nothing more is sent, and every register is at its reset value
(70_reset_and_hazards.md R238). -/
def Obligations.RstAbandonsOperation : Prop :=
  (∀ (i : Instr) (s : State) (ps : List Pin), reading s.pins = .rst ps →
    ∃ u, exec i s = .next u ∧ hasResetValues u ∧ u.resValid = false ∧ u.sent = s.sent ∧ u.reqs = s.reqs ∧
      u.pins = ps) ∧
  (∀ (i : Instr) (s t : State) (q ps : List Pin), exec i s = .next t → t.busy = true →
    (arrival q = .rst ps ∨ ∃ ok r, q = .done ok :: r ∧ reading r = .rst ps) →
    ∃ u, step { t with pins := q } = .next u ∧ hasResetValues u ∧ u.resValid = false ∧ u.sent = t.sent ∧
      u.reqs = t.reqs ∧ u.pins = ps)

/-- A reserved OPSEL raises ILLEGAL_OP with the OPSEL in FAULT_INFO, changes no other state and emits nothing
(30_encoding.md R63, 60_exceptions.md R213, R215). That FAULT_OP is the reserved OPSEL as well is the model's
reading (log 31). -/
def Obligations.ReservedOpselFaults : Prop :=
  ∀ (s : State) (r : Request) (rs : List Request) (ps qs : List Pin), s.busy = false →
    reading s.pins = .clear ps → reading ps = .clear qs → s.fault.code = 0 → s.reqs = r :: rs →
    r.opsel.toNat ∉ [0x01, 0x02, 0x10, 0x11, 0x12, 0x13, 0x14, 0x15, 0x16, 0x17, 0x18, 0x1F, 0x20, 0x21, 0x22, 0x23,
      0x24, 0x28, 0x30, 0x31, 0x32, 0x33, 0x34, 0x3E, 0x3F] →
    step s = .next (refusedBy r.opsel 2 (BitVec.ofNat 32 r.opsel.toNat) { s with reqs := rs, pins := qs })

/-- The course of an operation does not depend on when the transport answers: an operation that waits and is
answered later (`q` begins with the answer, and may hold anything after it) goes on to the state in which it
would have been answered at once, and an operation that has ended does not see later answers
(41_command_encoder.md R101, 20_memory.md R55, log 1). -/
def Obligations.TransportTimingIrrelevant : Prop :=
  ∀ (i : Instr) (s t : State) (ok : Bool) (r q : List Pin), exec i s = .next t → q = .done ok :: r →
    (t.busy = true → exec i { s with pins := s.pins ++ q } = .next (resume { t with pins := t.pins ++ q })) ∧
    (t.busy = false → exec i { s with pins := s.pins ++ q } = .next { t with pins := t.pins ++ q })

/-! ## The request encoding -/

/-- Decoding an encoded well-formed instruction gives it back, for every operation and every operand
(30_encoding.md R62, R64, R69, R71). -/
def Obligations.DecodeOfEncode : Prop :=
  ∀ i : Instr, i.wellFormed = true → decode (encode i) = .ok i

/-- A request that decodes is the encoding of its instruction, which is well-formed: no two requests stand
for one instruction, and no byte is dropped (30_encoding.md R62, R64, R68). -/
def Obligations.EncodeOfDecode : Prop :=
  ∀ (r : Request) (i : Instr), decode r = .ok i → encode i = r ∧ i.wellFormed = true

/-- Requests written out from the spec decode to their instructions (30_encoding.md R62 to R71,
95_test_vectors.md V4, V9, V10, P2). -/
def Obligations.WrittenRequestsDecode : Prop :=
  decode ⟨0x15, [0x13, 0, 0, 0, 0, 0, 0, 0, 0x00, 0xC2, 0xEB, 0x0B, 0, 0, 0, 0]⟩ =
    .ok (.quantSamplerate ⟨19, 200000000⟩) ∧
  decode ⟨0x11, [2, 1, 2, 1, 0]⟩ = .ok (.encRelays 2 1 2 1 0) ∧
  decode ⟨0x30, [0x01, 0x80, 0, 0]⟩ = .ok (.decodeTp 0x8001) ∧
  decode ⟨0x31, [0x02, 0x00, 0x03, 0, 0, 0, 7, 8, 9]⟩ = .ok (.unwrap 2 3 [7, 8, 9]) ∧
  decode ⟨0x14, [3]⟩ = .ok (.encRamlen 3) ∧
  decode ⟨0x3F, []⟩ = .ok .reset

/-- A Q operand is 16 bytes: a two's-complement numerator and an unsigned denominator, each 8 bytes, the
least significant first; a zero denominator is BAD_OPERAND; and two encodings of one rational are the same
operand of every operation that takes one (30_encoding.md R71). -/
def Obligations.RationalOperands : Prop :=
  (∀ b : Fin 16 → Byte, ∃ q, decode ⟨0x15, List.ofFn b⟩ = .ok (.quantSamplerate q) ∧
    q.num = b 7 ++ b 6 ++ b 5 ++ b 4 ++ b 3 ++ b 2 ++ b 1 ++ b 0 ∧
    q.den = b 15 ++ b 14 ++ b 13 ++ b 12 ++ b 11 ++ b 10 ++ b 9 ++ b 8) ∧
  (∀ (q : QOperand) (s : State) (ps : List Pin), reading s.pins = .clear ps → q.den = 0 →
    exec (.quantSamplerate q) s = .next (refusedBy 0x15 3 0 { s with pins := ps })) ∧
  (∀ p q : QOperand, p.den ≠ 0 → q.den ≠ 0 → qVal p = qVal q →
    (∀ s, exec (.quantSamplerate p) s = exec (.quantSamplerate q) s) ∧
    (∀ dl s, exec (.encTriglen dl p) s = exec (.encTriglen dl q) s) ∧
    (∀ r0 r1 o src t s, exec (.encOffsets r0 p r1 o src t) s = exec (.encOffsets r0 q r1 o src t) s) ∧
    (∀ r0 r1 o src t s, exec (.encOffsets r0 o r1 p src t) s = exec (.encOffsets r0 o r1 q src t) s) ∧
    (∀ r0 r1 o src t s, exec (.encOffsets r0 o r1 t src p) s = exec (.encOffsets r0 o r1 t src q) s) ∧
    (∀ (c : CfgOperand) s, exec (.apply { c with off0 := p }) s = exec (.apply { c with off0 := q }) s) ∧
    (∀ (c : CfgOperand) s, exec (.apply { c with off1 := p }) s = exec (.apply { c with off1 := q }) s) ∧
    (∀ (c : CfgOperand) s, exec (.apply { c with toff := p }) s = exec (.apply { c with toff := q }) s) ∧
    (∀ (c : CfgOperand) s, exec (.apply { c with tb := p }) s = exec (.apply { c with tb := q }) s) ∧
    (∀ (c : CfgOperand) s, exec (.apply { c with ta := p }) s = exec (.apply { c with ta := q }) s))

/-! ## Operand checks and faults -/

/-- Every operation checks its operands first and reports the first bad field, with its byte offset; it
then reads no state, writes nothing but the fault entry and emits nothing (30_encoding.md R65; 60_exceptions.md
R213, R215). That IBUF too is as before where an ASSEMBLE_FRAME faults is the model's choice (log 14). -/
def Obligations.FirstBadFieldReported : Prop :=
  ∀ (i : Instr) (s : State) (ps : List Pin) (off : Nat), reading s.pins = .clear ps →
    firstBad (operandFields i) = some off →
    exec i s = .next (refusedBy i.opsel 3 (BitVec.ofNat 32 off) { s with pins := ps })

/-- BAD_OPERAND is raised for nothing else: an operation with good operands raises no such fault
(30_encoding.md R65, 60_exceptions.md R210). -/
def Obligations.GoodOperandsNeverBadOperand : Prop :=
  ∀ (i : Instr) (s t : State), operandsGood i → exec i s = .next t → t.fault.code = 3 → t.fault = s.fault

/-- A fault of codes 2 to 9 leaves every register except the fault record unchanged and has emitted nothing:
the state is the one of fault entry at the operation's start (60_exceptions.md R213, R215). These rules speak of
registers: that IBUF too is as before where an UNWRAP or ASSEMBLE_FRAME faults is the model's choice (log 14). -/
def Obligations.ChecksPrecedeEveryEffect : Prop :=
  ∀ (i : Instr) (s t : State), s.fault.code = 0 → exec i s = .next t → 2 ≤ t.fault.code.toNat →
    ∃ ps, reading s.pins = .clear ps ∧ t = refusedBy i.opsel t.fault.code t.fault.info { s with pins := ps }

/-- Every well-formed request has a next state, whatever the state: no data ends a run (log 28). -/
def Obligations.WellFormedNeverStops : Prop :=
  ∀ (i : Instr) (s : State), i.wellFormed = true → ∃ t, exec i s = .next t

/-! ## What an operation may change -/

/-- The writers of the registers: CAL only CAL_LOAD, the relay shadow only ENC_RELAYS and APPLY, the
sample-clock register only QUANT_SAMPLERATE and APPLY, CFG only APPLY, SEQ only APPLY or fault entry, and
each of them RESET or RST (10_state.md R31). The requests still offered are never touched, and what was
sent stays sent. -/
def Obligations.RegisterWriters : Prop :=
  ∀ (i : Instr) (s t : State), exec i s = .next t → Pin.rst ∉ s.pins → i ≠ .reset →
    ((∀ lv, i ≠ .calLoad lv) → t.cal = s.cal ∧ t.calValid = s.calValid) ∧
    ((∀ a b c d e, i ≠ .encRelays a b c d e) → (∀ c, i ≠ .apply c) →
      t.relayShadow = s.relayShadow ∧ t.relayValid = s.relayValid) ∧
    ((∀ q, i ≠ .quantSamplerate q) → (∀ c, i ≠ .apply c) →
      t.sampleTCode = s.sampleTCode ∧ t.sampleTValid = s.sampleTValid) ∧
    ((∀ c, i ≠ .apply c) → t.cfg = s.cfg ∧ (t.seq = s.seq ∨ t.seq = 0)) ∧
    (t.fault = s.fault ∨ t.resKind = .fault ∧ t.resValue = .record t.fault) ∧
    t.reqs = s.reqs ∧ ∃ xs, t.sent = s.sent ++ xs

/-- Every byte of IBUF is as before unless the operation is UNWRAP or ASSEMBLE_FRAME, and every byte of OBUF
unless it is one of these, BUILD_DATA_HEADER or BUILD_STOPPED_FRAME; RESET and RST apart, after which the
buffers are unspecified (20_memory.md R45, 70_reset_and_hazards.md R236). That a byte keeps its value
between operations is the model's choice (log 13). -/
def Obligations.BufferWriters : Prop :=
  ∀ (i : Instr) (s t : State), exec i s = .next t → Pin.rst ∉ s.pins → i ≠ .reset →
    (∀ tp l b, i ≠ .unwrap tp l b) → (∀ p l b, i ≠ .assembleFrame p l b) →
    (∀ a, Memory.byteAt t.ibuf a = Memory.byteAt s.ibuf a) ∧
    (i ≠ .buildDataHeader → i ≠ .buildStoppedFrame → ∀ a, Memory.byteAt t.obuf a = Memory.byteAt s.obuf a)

/-- Every transfer an operation offers is one of the kinds of R72, with its fixed length, and BEGIN comes
before each bulk write and before nothing else (30_encoding.md R72, R73; 41_command_encoder.md R102). -/
def Obligations.TransferStreamForm : Prop :=
  ∀ (i : Instr) (s t : State), exec i s = .next t →
    ∃ xs, t.sent = s.sent ++ xs ∧ beginsPaired false xs = true ∧ ∀ x ∈ xs, knownTransfer x = true

/-! ## Calibration -/

/-- CAL_LOAD replaces all 36 cells: entries `2 × (9c + r)` and the next of its little-endian operand are the
min and the max of channel c, range r, but for the cell of CH1 at 1 V, which takes the override pair. It
sets CAL_VALID, posts OK(0), emits nothing and writes nothing else (40_calibration.md R90). -/
def Obligations.CalLoadReplacesFile : Prop :=
  ∀ (b : Fin 72 → Byte) (s : State) (ps : List Pin), reading s.pins = .clear ps → ∃ lv c : CalFile,
    decode ⟨0x01, List.ofFn b⟩ = .ok (.calLoad lv) ∧
    exec (.calLoad lv) s = .next (ended 0x01 (.count 0) { s with cal := c, calValid := true, pins := ps }) ∧
    ∀ (ch : Channel) (r : Range) (k : Fin 72), k.val = 4 * (9 * ch.code.toNat + r.code.toNat) →
      calGet c ch r = if ch = .ch1 ∧ r = .v1 then Config.calOverride
        else ⟨b (k + 1) ++ b k, b (k + 3) ++ b (k + 2)⟩

/-- A second CAL_LOAD leaves what it alone would have left (40_calibration.md R92). -/
def Obligations.CalLoadTwice : Prop :=
  ∀ (a b : CalFile) (s : State) (ps : List Pin), reading s.pins = .clear ps →
    ∃ t, exec (.calLoad a) s = .next t ∧ exec (.calLoad b) t = exec (.calLoad b) { s with pins := ps }

/-- CAL_LOOKUP returns the pair of the channel and the range; a bad index is BAD_OPERAND at its field, before
the check of CAL_VALID, which is CAL_NOT_LOADED (40_calibration.md R94). -/
def Obligations.CalLookupReturnsPair : Prop :=
  ∀ (s : State) (ps : List Pin), reading s.pins = .clear ps →
    (∀ (c : Channel) (r : Range), s.calValid = true →
      exec (.calLookup c.code r.code) s = .next (ended 0x02 (.pair (calGet s.cal c r)) { s with pins := ps })) ∧
    (∀ (c : Channel) (r : Range), s.calValid = false →
      exec (.calLookup c.code r.code) s = .next (refusedBy 0x02 4 0 { s with pins := ps })) ∧
    (∀ c r : Byte, 1 < c.toNat → exec (.calLookup c r) s = .next (refusedBy 0x02 3 0 { s with pins := ps })) ∧
    (∀ c r : Byte, c.toNat ≤ 1 → 8 < r.toNat →
      exec (.calLookup c r) s = .next (refusedBy 0x02 3 1 { s with pins := ps }))

/-! ## Device commands, with the defaults that the rules give for the parameters (logs 17, 18) -/

/-- ENC_VOLTAGE: BEGIN and the voltage command, OK(2); TRANSPORT on either; BAD_OPERAND first
(41_command_encoder.md R105, 30_encoding.md R78). -/
def Obligations.EncVoltageCommand : Prop :=
  ∀ r0 cp0 r1 cp1 : Byte, isCheckedCommand (.encVoltage r0 cp0 r1 cp1) [0x07, 0, r0, cp0, r1, cp1, 0, 0]

/-- ENC_TRIGIN (41_command_encoder.md R108, 30_encoding.md R79). -/
def Obligations.EncTriginCommand : Prop :=
  ∀ src slope : Byte, isCheckedCommand (.encTrigin src slope) [0x0C, 0, src, slope]

/-- ENC_CHANNELS (41_command_encoder.md R110, 30_encoding.md R80). -/
def Obligations.EncChannelsCommand : Prop :=
  ∀ sel : Byte, isCheckedCommand (.encChannels sel) [0x0B, 0, sel, 0]

/-- ENC_RAMLEN (41_command_encoder.md R112, 30_encoding.md R81). -/
def Obligations.EncRamlenCommand : Prop :=
  ∀ dl : Byte, isCheckedCommand (.encRamlen dl) [0x0D, 0, dl, 0]

/-- ENC_FILTER, and the same payload on every call (41_command_encoder.md R114, 30_encoding.md R84). -/
def Obligations.EncFilterCommand : Prop := isDeviceCommand 0x17 .encFilter [0x00, 0, 0, 0]

/-- The five capture-control commands, each BEGIN and a constant bulk write (44_capture_control.md R171 to
R175, 30_encoding.md R85). -/
def Obligations.CaptureCommands : Prop :=
  isDeviceCommand 0x20 .capStart [0x03, 0] ∧ isDeviceCommand 0x21 .capTrigen [0x04, 0] ∧
    isDeviceCommand 0x22 .capForcetrig [0x02, 0] ∧ isDeviceCommand 0x23 .capQuerystate [0x06, 0] ∧
    isDeviceCommand 0x24 .capGetdata [0x05, 0]

/-! ## The sample clock -/

/-- The complete code table of the quantizer: each code's sample interval, m, N, divider and flags, and
exactly the requests that select it; none above 400 µs (42_sample_clock.md R130). -/
def Obligations.QuantizerCodeTable : Prop :=
  (∀ c : BitVec 4, stair c = stepSeconds c ∧ (divider c).toNat = dividerTable.getD c.toNat 0 ∧
    flagByte (fastSel c) ||| (flagByte (slowSel c) <<< 1) = rateFlagTable.getD c.toNat 0 ∧
    (c ≠ 0 → stairMultiplier c = [0, 1, 2, 4, 1, 2, 4, 1, 2, 4, 1, 2, 4, 1, 2, 4].getD c.toNat 0 ∧
      10 * stairCount c = stairNanoseconds.getD c.toNat 0)) ∧
  (∀ (c : BitVec 4) (req : Rat), quantize req = some c ↔
    req ≤ stepSeconds c ∧ (c = 0 ∨ stepSeconds (c - 1) < req)) ∧
  (∀ req : Rat, quantize req = none ↔ 400 / 10 ^ 6 < req)

/-- QUANT_SAMPLERATE programs the rate of the least step and writes the sample-clock register only when both
transfers succeed; a request above 400 µs is SAMPLE_RANGE and a zero denominator BAD_OPERAND, with nothing
emitted (42_sample_clock.md R124, R129). -/
def Obligations.QuantSampleratePrograms : Prop :=
  ∀ (req : QOperand) (s : State) (ps : List Pin),
    (reading s.pins = .clear ps → req.den = 0 →
      exec (.quantSamplerate req) s = .next (refusedBy 0x15 3 0 { s with pins := ps })) ∧
    (reading s.pins = .clear ps → req.den ≠ 0 → 400 / 10 ^ 6 < qVal req →
      exec (.quantSamplerate req) s = .next (refusedBy 0x15 5 0 { s with pins := ps })) ∧
    (req.den ≠ 0 → qVal req ≤ 400 / 10 ^ 6 → ∃ c, selects (qVal req) c ∧
      (answers [true, true] s.pins ps → exec (.quantSamplerate req) s =
        .next (emitted 0x15 [beginBytes] (bulk (rateBytes c)) ps { s with sampleTCode := c, sampleTValid := true })) ∧
      (answers [false] s.pins ps → exec (.quantSamplerate req) s = .next (brokenAt 0x15 1 [] beginBytes ps s)) ∧
      (answers [true, false] s.pins ps → exec (.quantSamplerate req) s =
        .next (brokenAt 0x15 4 [beginBytes] (bulk (rateBytes c)) ps s)))

/-! ## Relays -/

/-- ENC_RELAYS: skipped with OK(0) exactly when the shadow is valid and equal in all 17 bytes; else one
transfer, whose success writes the shadow; a failing one leaves it (43_config_translator.md R137, R138,
R139). -/
def Obligations.EncRelaysSuppression : Prop :=
  ∀ r0 cp0 r1 cp1 src : Byte, reportsBadOperand (.encRelays r0 cp0 r1 cp1 src) ∧
    (operandsGood (.encRelays r0 cp0 r1 cp1 src) → ∀ (s : State) (ps : List Pin),
      (reading s.pins = .clear ps → s.relayValid = true → s.relayShadow = maskBytes r0 cp0 r1 cp1 src →
        exec (.encRelays r0 cp0 r1 cp1 src) s = .next (ended 0x11 (.count 0) { s with pins := ps })) ∧
      (¬ (s.relayValid = true ∧ s.relayShadow = maskBytes r0 cp0 r1 cp1 src) →
        (answers [true] s.pins ps → exec (.encRelays r0 cp0 r1 cp1 src) s =
          .next (emitted 0x11 [] (relaysBytes (maskBytes r0 cp0 r1 cp1 src)) ps
            { s with relayShadow := maskBytes r0 cp0 r1 cp1 src, relayValid := true })) ∧
        (answers [false] s.pins ps → exec (.encRelays r0 cp0 r1 cp1 src) s =
          .next (brokenAt 0x11 2 [] (relaysBytes (maskBytes r0 cp0 r1 cp1 src)) ps s))))

/-- The same relay inputs twice in a row with no reset between issue the relay transfer once: once the first
has ended with OK, the second sends nothing, and the first sent it unless the shadow was valid and equal
(43_config_translator.md R140). -/
def Obligations.RelaysIssuedOnce : Prop :=
  ∀ (r0 cp0 r1 cp1 src : Byte) (s t : State), exec (.encRelays r0 cp0 r1 cp1 src) s = .next t →
    t.resValid = true → t.resKind = .ok →
    (∀ ps, reading t.pins = .clear ps →
      exec (.encRelays r0 cp0 r1 cp1 src) t = .next (ended 0x11 (.count 0) { t with pins := ps })) ∧
    t.sent = s.sent ++ (if s.relayValid = true ∧ s.relayShadow = maskBytes r0 cp0 r1 cp1 src then []
      else [relaysBytes (maskBytes r0 cp0 r1 cp1 src)])

/-! ## The trigger-length window -/

/-- ENC_TRIGLEN: BEGIN and the window's two bounds, little-endian, the lower first
(43_config_translator.md R144, R145; 30_encoding.md R77, R83). -/
def Obligations.EncTriglenCommand : Prop :=
  ∀ (dl : Byte) (ta : QOperand), isCheckedCommand (.encTriglen dl ta) (triglenBytes dl (qVal ta))

/-- Both bounds lie in 19 bits before the mask, which never changes them, in the ranges the rule gives, whose
ends are reached at 1 and at 98; and their sum does not depend on the address
(43_config_translator.md R142, R146). -/
def Obligations.WindowBounds : Prop :=
  (∀ ta : Rat,
    102 ≤ windowSamples .small ta ∧ windowSamples .small ta ≤ 10035 ∧
    5242 ≤ windowSamples .large ta ∧ windowSamples .large ta ≤ 513802 ∧
    0x7D865 ≤ windowLowRaw .small ta ∧ windowLowRaw .small ta ≤ 0x7FF32 ∧
    0x7D8CC ≤ windowHighRaw .small ta ∧ windowHighRaw .small ta ≤ 0x7FF99 ∧
    0x01479 ≤ windowLowRaw .large ta ∧ windowLowRaw .large ta ≤ 0x7D709 ∧
    0x028F5 ≤ windowHighRaw .large ta ∧ windowHighRaw .large ta ≤ 0x7EB85 ∧
    ∀ dl, ((windowLow dl ta).toNat : Int) = windowLowRaw dl ta ∧
      ((windowHigh dl ta).toNat : Int) = windowHighRaw dl ta ∧
      (windowLow dl ta).toNat + (windowHigh dl ta).toNat + totalSamples dl = 0xFFFFE) ∧
  windowLowRaw .small 1 = 0x7D865 ∧ windowLowRaw .small 98 = 0x7FF32 ∧
  windowHighRaw .small 1 = 0x7FF99 ∧ windowHighRaw .small 98 = 0x7D8CC ∧
  windowLowRaw .large 1 = 0x01479 ∧ windowLowRaw .large 98 = 0x7D709 ∧
  windowHighRaw .large 1 = 0x7EB85 ∧ windowHighRaw .large 98 = 0x028F5

/-- The trigger address is clamped to [1, 98] before use: two addresses with one clamped value give the same
operation (43_config_translator.md R141). -/
def Obligations.TriggerAddressClamped : Prop :=
  ∀ (dl : Byte) (a b : QOperand) (s : State), a.den ≠ 0 → b.den ≠ 0 →
    max 1 (min 98 (qVal a)) = max 1 (min 98 (qVal b)) → exec (.encTriglen dl a) s = exec (.encTriglen dl b) s

/-! ## Offsets -/

/-- The channel value is the nearest integer to the exact value, a tie going up, lies between the two
calibration levels whichever is greater, and meets them at the ends (43_config_translator.md R151). -/
def Obligations.ChannelValueCalibrated : Prop :=
  ∀ (pair : CalPair) (off : Rat), 0 ≤ off → off ≤ 1 →
    (chanDac pair off : Rat) - 1 / 2 ≤ off * ((pair.max.toNat : Rat) - pair.min.toNat) + pair.min.toNat ∧
    off * ((pair.max.toNat : Rat) - pair.min.toNat) + pair.min.toNat < (chanDac pair off : Rat) + 1 / 2 ∧
    (min pair.min.toNat pair.max.toNat : Int) ≤ chanDac pair off ∧
    chanDac pair off ≤ (max pair.min.toNat pair.max.toNat : Int) ∧
    chanDac pair 0 = pair.min.toNat ∧ chanDac pair 1 = pair.max.toNat

/-- The trigger value is 0x7F for ALT and EXT; for a channel it is the rounded value clamped to [0, 0xFD]
(43_config_translator.md R150). -/
def Obligations.TriggerValueClamped : Prop :=
  (∀ toff : Rat, trigDac .alt toff = 0x7F ∧ trigDac .ext toff = 0x7F) ∧
  (∀ (src : TrigSource) (toff : Rat), src = .ch1 ∨ src = .ch2 →
    (toff ≤ 0 → trigDac src toff = 0) ∧ (1 ≤ toff → trigDac src toff = 0xFD) ∧
    (0 ≤ toff → toff ≤ 1 → 0 ≤ trigDac src toff ∧ trigDac src toff ≤ 0xFD ∧
      (trigDac src toff : Rat) - 1 / 2 ≤ toff * 0xFD ∧ toff * 0xFD < (trigDac src toff : Rat) + 1 / 2))

/-- ENC_OFFSETS: its checks in their order, then one control transfer of the three biased words
(43_config_translator.md R152, R153; 30_encoding.md R76). -/
def Obligations.EncOffsetsTransfer : Prop :=
  (∀ (r0 : Byte) (off0 : QOperand) (r1 : Byte) (off1 : QOperand) (src : Byte) (toff : QOperand),
    reportsBadOperand (.encOffsets r0 off0 r1 off1 src toff)) ∧
  ∀ (r0 : Range) (off0 : QOperand) (r1 : Range) (off1 : QOperand) (src : TrigSource) (toff : QOperand) (s : State)
    (ps : List Pin), off0.den ≠ 0 → off1.den ≠ 0 → toff.den ≠ 0 →
    let i := Instr.encOffsets r0.code off0 r1.code off1 src.code toff
    let x := offsetsBytes (channelValue (calGet s.cal .ch1 r0) (qVal off0))
      (channelValue (calGet s.cal .ch2 r1) (qVal off1)) (triggerValue src.code (qVal toff))
    (reading s.pins = .clear ps → qVal off0 < 0 ∨ 1 < qVal off0 →
      exec i s = .next (refusedBy 0x18 7 0 { s with pins := ps })) ∧
    (reading s.pins = .clear ps → 0 ≤ qVal off0 → qVal off0 ≤ 1 → qVal off1 < 0 ∨ 1 < qVal off1 →
      exec i s = .next (refusedBy 0x18 7 1 { s with pins := ps })) ∧
    (0 ≤ qVal off0 → qVal off0 ≤ 1 → 0 ≤ qVal off1 → qVal off1 ≤ 1 →
      (reading s.pins = .clear ps → s.calValid = false →
        exec i s = .next (refusedBy 0x18 4 0 { s with pins := ps })) ∧
      (s.calValid = true → answers [true] s.pins ps → exec i s = .next (emitted 0x18 [] x ps s)) ∧
      (s.calValid = true → answers [false] s.pins ps → exec i s = .next (brokenAt 0x18 3 [] x ps s)))

/-! ## APPLY and GET_CONFIG

TB_TO_REQ is an OPEN parameter, so whether a time base gives a request above 400 µs stands in the
conclusions (00_scope.md R12, log 15). -/

/-- Validate's checks in their order, each before any effect (43_config_translator.md R161). -/
def Obligations.ApplyValidation : Prop :=
  ∀ (c : CfgOperand) (s : State) (ps : List Pin), reading s.pins = .clear ps →
    (∀ off, firstBad (operandFields (.apply c)) = some off →
      exec (.apply c) s = .next (refusedBy 0x1F 3 (BitVec.ofNat 32 off) { s with pins := ps })) ∧
    (operandsGood (.apply c) →
      (qVal c.off0 < 0 ∨ 1 < qVal c.off0 → exec (.apply c) s = .next (refusedBy 0x1F 7 0 { s with pins := ps })) ∧
      (0 ≤ qVal c.off0 → qVal c.off0 ≤ 1 → qVal c.off1 < 0 ∨ 1 < qVal c.off1 →
        exec (.apply c) s = .next (refusedBy 0x1F 7 1 { s with pins := ps })) ∧
      (0 ≤ qVal c.off0 → qVal c.off0 ≤ 1 → 0 ≤ qVal c.off1 → qVal c.off1 ≤ 1 →
        (s.calValid = false → exec (.apply c) s = .next (refusedBy 0x1F 4 0 { s with pins := ps })) ∧
        (s.calValid = true → ∃ cfg, denotes c cfg ∧
          if Config.tbToReq cfg.timeBase ≤ 400 / 10 ^ 6 then
            ∃ t, exec (.apply c) s = .next t ∧ (t.fault = s.fault ∨ t.fault = FaultRecord.none ∨ t.fault.code = 1)
          else exec (.apply c) s = .next (refusedBy 0x1F 5 0 { s with pins := ps }))))

/-- A completed APPLY: 16 transfers in the fixed order, 15 where RELAYS is suppressed, CFG replaced whole, the
relay shadow and the sample-clock register written, SEQ back at 0, OK(done)
(43_config_translator.md R160, R164). -/
def Obligations.ApplyCompletes : Prop :=
  ∀ (c : CfgOperand) (cfg : InstrumentConfig) (s : State) (ps : List Pin), applicable c cfg s →
    answers (List.replicate (applyCount (needsRelays s cfg)) true) s.pins ps →
    if Config.tbToReq cfg.timeBase ≤ 400 / 10 ^ 6 then
      ∃ code, selects (Config.tbToReq cfg.timeBase) code ∧
        exec (.apply c) s = .next (emitted 0x1F (applyBefore cfg code (needsRelays s cfg)) (cfgOffsets s.cal cfg) ps
          { s with cfg := cfg, seq := 0, relayShadow := cfgMask cfg, relayValid := true, sampleTCode := code,
                   sampleTValid := true })
    else ∃ qs, reading s.pins = .clear qs ∧ exec (.apply c) s = .next (refusedBy 0x1F 5 0 { s with pins := qs })

/-- APPLY does not roll back: where transfer n fails, the transfers before it were sent, CFG is the new one,
the relay shadow is written if RELAYS was sent with success, the sample-clock register if the rate command
was, and FAULT_SEQ is the failing step (43_config_translator.md R163, 60_exceptions.md R216). -/
def Obligations.ApplyDoesNotRollBack : Prop :=
  ∀ (c : CfgOperand) (cfg : InstrumentConfig) (s : State) (ps : List Pin) (n : Nat), applicable c cfg s →
    n < applyCount (needsRelays s cfg) → answers (List.replicate n true ++ [false]) s.pins ps →
    if Config.tbToReq cfg.timeBase ≤ 400 / 10 ^ 6 then
      ∃ code, selects (Config.tbToReq cfg.timeBase) code ∧
        exec (.apply c) s = .next (brokenAt 0x1F ((forTransfers (needsRelays s cfg) applyKindOf).getD n 0)
          ((applyAll s.cal cfg code (needsRelays s cfg)).take n)
          ((applyAll s.cal cfg code (needsRelays s cfg)).getD n beginBytes) ps
          { s with
            cfg := cfg
            seq := (forTransfers (needsRelays s cfg) applyStepOf).getD n 0
            relayShadow := if needsRelays s cfg ∧ 3 ≤ n then cfgMask cfg else s.relayShadow
            relayValid := if needsRelays s cfg ∧ 3 ≤ n then true else s.relayValid
            sampleTCode := if applyCount (needsRelays s cfg) ≤ n + 5 then code else s.sampleTCode
            sampleTValid := if applyCount (needsRelays s cfg) ≤ n + 5 then true else s.sampleTValid })
    else ∃ qs, reading s.pins = .clear qs ∧ exec (.apply c) s = .next (refusedBy 0x1F 5 0 { s with pins := qs })

/-- Two APPLYs of one configuration emit 16 and then 15 transfers, the second without RELAYS, and both leave
the same register state (43_config_translator.md R169). -/
def Obligations.ApplyTwice : Prop :=
  ∀ (c : CfgOperand) (cfg : InstrumentConfig) (s : State) (ps qs : List Pin), applicable c cfg s →
    needsRelays s cfg = true → answers (List.replicate 16 true) s.pins ps → answers (List.replicate 15 true) ps qs →
    if Config.tbToReq cfg.timeBase ≤ 400 / 10 ^ 6 then
      ∃ code t u, exec (.apply c) s = .next t ∧ exec (.apply c) t = .next u ∧
        t.resValue = .count 16 ∧ u.resValue = .count 15 ∧
        t.sent = s.sent ++ applyAll s.cal cfg code true ∧
        u.sent = t.sent ++ (applyAll s.cal cfg code true).eraseIdx 2 ∧
        u.seq = t.seq ∧ u.busy = t.busy ∧ u.cal = t.cal ∧ u.calValid = t.calValid ∧ u.relayShadow = t.relayShadow ∧
        u.relayValid = t.relayValid ∧ u.sampleTCode = t.sampleTCode ∧ u.sampleTValid = t.sampleTValid ∧
        u.cfg = t.cfg ∧ u.fault = t.fault ∧ u.xferValid = t.xferValid
    else ∃ qs, reading s.pins = .clear qs ∧ exec (.apply c) s = .next (refusedBy 0x1F 5 0 { s with pins := qs })

/-- GET_CONFIG returns CFG, the validity of the sample clock, and the code or 0, and changes nothing
(43_config_translator.md R166). -/
def Obligations.GetConfigReturnsConfiguration : Prop :=
  ∀ (s : State) (ps : List Pin), reading s.pins = .clear ps → exec .getConfig s =
    .next (ended 0x3E (.config s.cfg s.sampleTValid (if s.sampleTValid = true then s.sampleTCode else 0))
      { s with pins := ps })

/-! ## Capture state and pointer -/

/-- DECODE_CAPSTATE gives the state of 0, 1 and 3, UNKNOWN for every other value, with the raw value; UNKNOWN
is no fault (44_capture_control.md R177, R178). -/
def Obligations.DecodeCapstateResult : Prop :=
  ∀ (v : Word) (s : State) (ps : List Pin), reading s.pins = .clear ps → ∃ k : CapState,
    exec (.decodeCapstate v) s = .next (ended 0x28 (.capState k v) { s with pins := ps }) ∧
    (v.toNat = 0 → k = .waiting ∧ k.code = 0) ∧ (v.toNat = 1 → k = .capturing ∧ k.code = 1) ∧
    (v.toNat = 3 → k = .ready ∧ k.code = 3) ∧
    (v.toNat ≠ 0 → v.toNat ≠ 1 → v.toNat ≠ 3 → k = .unknown ∧ k.code = 0xFF)

/-- DECODE_TP returns the transform of a raw pointer of 18 bits, whatever its size; with a bit above, it is
BAD_OPERAND at offset 0 (45_frame_assembler.md R186). -/
def Obligations.DecodeTpResult : Prop :=
  ∀ (p : Word) (s : State) (ps : List Pin), reading s.pins = .clear ps →
    (p.toNat < 2 ^ 18 → ∃ tp : HalfWord, exec (.decodeTp p) s = .next (ended 0x30 (.pointer tp) { s with pins := ps }) ∧
      ∀ i, i < 16 → tp.getLsbD i = xorDownTo p i) ∧
    (2 ^ 18 ≤ p.toNat → exec (.decodeTp p) s = .next (refusedBy 0x30 3 0 { s with pins := ps }))

/-- Bit i of the transform is the XOR of bits 15 down to i of the pointer; its inverse is `tp ^ (tp >> 1)`, it
is a bijection on u16, and bits 17:16 of the pointer do not matter (45_frame_assembler.md R188, R189). -/
def Obligations.PointerTransformIsGrayDecode : Prop :=
  (∀ (p : Word) (i : Nat), i < 16 → (tpTransform p).getLsbD i = xorDownTo p i) ∧
  (∀ p : Word, p.setWidth 16 = tpTransform p ^^^ (tpTransform p >>> 1)) ∧
  (∀ tp : HalfWord, ∃ low : HalfWord, tpTransform (low.setWidth 32) = tp ∧
    ∀ other : HalfWord, tpTransform (other.setWidth 32) = tp → other = low) ∧
  (∀ p : Word, tpTransform p = tpTransform ((p.setWidth 16).setWidth 32))

/-! ## Frames -/

/-- UNWRAP: BLOCK_LEN, then TP_RANGE; else IBUF holds the block, byte i of the body is byte
`(i + 2·tp) mod 20480` of it, and every register is as before (45_frame_assembler.md R190, R191, R192).
That a byte of OBUF that is not written keeps its value is the model's choice (log 13), and so is that IBUF is as
before after BLOCK_LEN and TP_RANGE (log 14). -/
def Obligations.UnwrapRotatesBlock : Prop :=
  ∀ (tp : HalfWord) (len : Word) (block : List Byte) (s : State) (ps : List Pin), reading s.pins = .clear ps →
    (len.toNat ≠ 20480 → exec (.unwrap tp len block) s = .next (refusedBy 0x31 9 len { s with pins := ps })) ∧
    (len.toNat = 20480 → 10240 ≤ tp.toNat →
      exec (.unwrap tp len block) s = .next (refusedBy 0x31 8 (BitVec.ofNat 32 tp.toNat) { s with pins := ps })) ∧
    (len.toNat = 20480 → tp.toNat < 10240 → block.length = 20480 → ∃ ib ob,
      exec (.unwrap tp len block) s = .next (ended 0x31 (.count 20480) { s with ibuf := ib, obuf := ob, pins := ps }) ∧
      (∀ a, Memory.byteAt ib a = block[a]?) ∧ holdsAt ob s.obuf 32 (unwrapped tp.toNat block))

/-- The rotation is a bijection: rotating left by `2·tp` and then right by `2·tp` gives back the block, and
output pair 0 is input pair tp (45_frame_assembler.md R194). -/
def Obligations.RotationIsBijection : Prop :=
  ∀ (tp : Nat) (block : List Byte), tp < 10240 → block.length = 20480 →
    rotateBlock tp block = unwrapped tp block ∧
    rotateBlock (10240 - tp) (rotateBlock tp block) = block ∧
    (rotateBlock tp block)[0]? = block[2 * tp]? ∧ (rotateBlock tp block)[1]? = block[2 * tp + 1]?

/-- BUILD_DATA_HEADER writes the 32 header bytes and nothing else; without a sample clock it is
SAMPLE_T_UNSET (45_frame_assembler.md R196, R198; 30_encoding.md R88). That the bytes it does not write
keep their values is the model's choice (log 13). -/
def Obligations.BuildDataHeaderWrites : Prop :=
  ∀ (s : State) (ps : List Pin), reading s.pins = .clear ps →
    (s.sampleTValid = false → exec .buildDataHeader s = .next (refusedBy 0x32 6 0 { s with pins := ps })) ∧
    (s.sampleTValid = true → ∃ ob,
      exec .buildDataHeader s = .next (ended 0x32 (.count 32) { s with obuf := ob, pins := ps }) ∧
      holdsAt ob s.obuf 0 (dataHeader s.cfg.timeBase.val (stepSeconds s.sampleTCode)))

/-- The binary32 patterns of the staircase (45_frame_assembler.md R197). -/
def Obligations.StaircasePatterns : Prop :=
  f32 (8 / 10 ^ 9) = 0x3209705F ∧ f32 (10 / 10 ^ 9) = 0x322BCC77 ∧ f32 (20 / 10 ^ 9) = 0x32ABCC77 ∧
    f32 (40 / 10 ^ 9) = 0x332BCC77 ∧ f32 (100 / 10 ^ 9) = 0x33D6BF95 ∧ f32 (200 / 10 ^ 9) = 0x3456BF95 ∧
    f32 (400 / 10 ^ 9) = 0x34D6BF95 ∧ f32 (1 / 10 ^ 6) = 0x358637BD ∧ f32 (400 / 10 ^ 6) = 0x39D1B717

/-- f32 rounds to the nearest finite pattern, a tie going to the even one, for every positive rational below
the overflow bound; 0 gives 0 (00_scope.md R14, 45_frame_assembler.md R197). The value of a pattern is taken
from IEEE-754 itself (log 21). -/
def Obligations.BinaryRoundsToNearestEven : Prop :=
  f32 0 = 0 ∧ ∀ q : Rat, 0 < q → q < 2 ^ 128 - 2 ^ 103 →
    (f32 q).toNat < 0x7F800000 ∧ ∀ p : Nat, p < 0x7F800000 → p ≠ (f32 q).toNat →
      |q - patternValue (f32 q).toNat| < |q - patternValue p| ∨
      (|q - patternValue (f32 q).toNat| = |q - patternValue p| ∧ (f32 q).toNat % 2 = 0)

/-- BUILD_STOPPED_FRAME writes its 32 bytes and nothing else, in any state (45_frame_assembler.md R199).
That the bytes it does not write keep their values is the model's choice (log 13). -/
def Obligations.BuildStoppedFrameWrites : Prop :=
  ∀ (s : State) (ps : List Pin), reading s.pins = .clear ps →
    ∃ ob, exec .buildStoppedFrame s = .next (ended 0x33 (.count 32) { s with obuf := ob, pins := ps }) ∧
    holdsAt ob s.obuf 0 stoppedFrame

/-- ASSEMBLE_FRAME: BAD_OPERAND, BLOCK_LEN, TP_RANGE, SAMPLE_T_UNSET in this order, each before any write;
else the 20512 bytes of the header and the rotated body, and OK(20512, tp)
(45_frame_assembler.md R201, R202). R201 has OBUF as it was after a fault; that IBUF is as before then too is the
model's choice (log 14). -/
def Obligations.AssembleFrameWrites : Prop :=
  ∀ (p len : Word) (block : List Byte) (s : State) (ps : List Pin), reading s.pins = .clear ps →
    (2 ^ 18 ≤ p.toNat → exec (.assembleFrame p len block) s = .next (refusedBy 0x34 3 0 { s with pins := ps })) ∧
    (p.toNat < 2 ^ 18 → len.toNat ≠ 20480 →
      exec (.assembleFrame p len block) s = .next (refusedBy 0x34 9 len { s with pins := ps })) ∧
    (p.toNat < 2 ^ 18 → len.toNat = 20480 → 10240 ≤ (tpTransform p).toNat →
      exec (.assembleFrame p len block) s =
        .next (refusedBy 0x34 8 (BitVec.ofNat 32 (tpTransform p).toNat) { s with pins := ps })) ∧
    (p.toNat < 2 ^ 18 → len.toNat = 20480 → (tpTransform p).toNat < 10240 → s.sampleTValid = false →
      exec (.assembleFrame p len block) s = .next (refusedBy 0x34 6 0 { s with pins := ps })) ∧
    (p.toNat < 2 ^ 18 → len.toNat = 20480 → (tpTransform p).toNat < 10240 → s.sampleTValid = true →
      block.length = 20480 → ∃ ib ob,
      exec (.assembleFrame p len block) s =
        .next (ended 0x34 (.frame 20512 (tpTransform p)) { s with ibuf := ib, obuf := ob, pins := ps }) ∧
      (∀ a, Memory.byteAt ib a = block[a]?) ∧
      holdsAt ob s.obuf 0 (dataHeader s.cfg.timeBase.val (stepSeconds s.sampleTCode) ++
        unwrapped (tpTransform p).toNat block))

/-! ## Pseudo-operations -/

/-- ARM, REARM and BOOT expand to the rule's operations in its order, BOOT's APPLY carrying CFG_DEFAULT serialized;
and the serialized operand of a configuration stands for it, field by field, with no bad operand, wherever its
five numbers fit the 64-bit fields of a Q (30_encoding.md R64, R67, R71; log 32). -/
def Obligations.PseudoOperations : Prop :=
  arm = [.capStart, .capTrigen, .capForcetrig] ∧ rearm = [.capStart, .capTrigen] ∧
  (∀ lv : CalFile, boot lv = [.reset, .calLoad lv, .apply (.ofConfig Config.cfgDefault)]) ∧
  ∀ cfg : InstrumentConfig, fitsQ cfg.ch0.offset → fitsQ cfg.ch1.offset → fitsQ cfg.trigger.offset →
    fitsQ cfg.timeBase.val → fitsQ cfg.triggerAddress →
    denotes (.ofConfig cfg) cfg ∧ operandsGood (.apply (.ofConfig cfg))
end

