-- ==== Sys2Proof/Laws/State.lean ====
section
/-! SUPPORT. One lemma per field for each update of State, so that no proof unfolds a record update. -/

namespace Sys2Proof.Machine

variable (s : State)

@[simp] theorem startOp_seq (op : Byte) : (startOp op s).seq = s.seq := rfl
@[simp] theorem startOp_busy (op : Byte) : (startOp op s).busy = true := rfl
@[simp] theorem startOp_cal (op : Byte) : (startOp op s).cal = s.cal := rfl
@[simp] theorem startOp_calValid (op : Byte) : (startOp op s).calValid = s.calValid := rfl
@[simp] theorem startOp_relayShadow (op : Byte) : (startOp op s).relayShadow = s.relayShadow := rfl
@[simp] theorem startOp_relayValid (op : Byte) : (startOp op s).relayValid = s.relayValid := rfl
@[simp] theorem startOp_sampleTCode (op : Byte) : (startOp op s).sampleTCode = s.sampleTCode := rfl
@[simp] theorem startOp_sampleTValid (op : Byte) : (startOp op s).sampleTValid = s.sampleTValid := rfl
@[simp] theorem startOp_cfg (op : Byte) : (startOp op s).cfg = s.cfg := rfl
@[simp] theorem startOp_fault (op : Byte) : (startOp op s).fault = s.fault := rfl
@[simp] theorem startOp_xferValid (op : Byte) : (startOp op s).xferValid = s.xferValid := rfl
@[simp] theorem startOp_xfer (op : Byte) : (startOp op s).xfer = s.xfer := rfl
@[simp] theorem startOp_resValid (op : Byte) : (startOp op s).resValid = false := rfl
@[simp] theorem startOp_resKind (op : Byte) : (startOp op s).resKind = s.resKind := rfl
@[simp] theorem startOp_resValue (op : Byte) : (startOp op s).resValue = s.resValue := rfl
@[simp] theorem startOp_ibuf (op : Byte) : (startOp op s).ibuf = s.ibuf := rfl
@[simp] theorem startOp_obuf (op : Byte) : (startOp op s).obuf = s.obuf := rfl
@[simp] theorem startOp_reqs (op : Byte) : (startOp op s).reqs = s.reqs := rfl
@[simp] theorem startOp_pins (op : Byte) : (startOp op s).pins = s.pins := rfl
@[simp] theorem startOp_op (op : Byte) : (startOp op s).op = op := rfl
@[simp] theorem startOp_done (op : Byte) : (startOp op s).done = 0 := rfl
@[simp] theorem startOp_work (op : Byte) : (startOp op s).work = s.work := rfl
@[simp] theorem startOp_sent (op : Byte) : (startOp op s).sent = s.sent := rfl

@[simp] theorem post_seq (v : ResValue) : (post v s).seq = s.seq := rfl
@[simp] theorem post_busy (v : ResValue) : (post v s).busy = false := rfl
@[simp] theorem post_cal (v : ResValue) : (post v s).cal = s.cal := rfl
@[simp] theorem post_calValid (v : ResValue) : (post v s).calValid = s.calValid := rfl
@[simp] theorem post_relayShadow (v : ResValue) : (post v s).relayShadow = s.relayShadow := rfl
@[simp] theorem post_relayValid (v : ResValue) : (post v s).relayValid = s.relayValid := rfl
@[simp] theorem post_sampleTCode (v : ResValue) : (post v s).sampleTCode = s.sampleTCode := rfl
@[simp] theorem post_sampleTValid (v : ResValue) : (post v s).sampleTValid = s.sampleTValid := rfl
@[simp] theorem post_cfg (v : ResValue) : (post v s).cfg = s.cfg := rfl
@[simp] theorem post_fault (v : ResValue) : (post v s).fault = s.fault := rfl
@[simp] theorem post_xferValid (v : ResValue) : (post v s).xferValid = s.xferValid := rfl
@[simp] theorem post_xfer (v : ResValue) : (post v s).xfer = s.xfer := rfl
@[simp] theorem post_resValid (v : ResValue) : (post v s).resValid = true := rfl
@[simp] theorem post_resKind (v : ResValue) : (post v s).resKind = .ok := rfl
@[simp] theorem post_resValue (v : ResValue) : (post v s).resValue = v := rfl
@[simp] theorem post_ibuf (v : ResValue) : (post v s).ibuf = s.ibuf := rfl
@[simp] theorem post_obuf (v : ResValue) : (post v s).obuf = s.obuf := rfl
@[simp] theorem post_reqs (v : ResValue) : (post v s).reqs = s.reqs := rfl
@[simp] theorem post_pins (v : ResValue) : (post v s).pins = s.pins := rfl
@[simp] theorem post_op (v : ResValue) : (post v s).op = s.op := rfl
@[simp] theorem post_done (v : ResValue) : (post v s).done = s.done := rfl
@[simp] theorem post_work (v : ResValue) : (post v s).work = [] := rfl
@[simp] theorem post_sent (v : ResValue) : (post v s).sent = s.sent := rfl

@[simp] theorem raise_seq (r : FaultReason) : (raise r s).seq = 0 := rfl
@[simp] theorem raise_busy (r : FaultReason) : (raise r s).busy = false := rfl
@[simp] theorem raise_cal (r : FaultReason) : (raise r s).cal = s.cal := rfl
@[simp] theorem raise_calValid (r : FaultReason) : (raise r s).calValid = s.calValid := rfl
@[simp] theorem raise_relayShadow (r : FaultReason) : (raise r s).relayShadow = s.relayShadow := rfl
@[simp] theorem raise_relayValid (r : FaultReason) : (raise r s).relayValid = s.relayValid := rfl
@[simp] theorem raise_sampleTCode (r : FaultReason) : (raise r s).sampleTCode = s.sampleTCode := rfl
@[simp] theorem raise_sampleTValid (r : FaultReason) : (raise r s).sampleTValid = s.sampleTValid := rfl
@[simp] theorem raise_cfg (r : FaultReason) : (raise r s).cfg = s.cfg := rfl
@[simp] theorem raise_fault (r : FaultReason) : (raise r s).fault = faultRecord r s := rfl
@[simp] theorem raise_xferValid (r : FaultReason) : (raise r s).xferValid = false := rfl
@[simp] theorem raise_xfer (r : FaultReason) : (raise r s).xfer = s.xfer := rfl
@[simp] theorem raise_resValid (r : FaultReason) : (raise r s).resValid = true := rfl
@[simp] theorem raise_resKind (r : FaultReason) : (raise r s).resKind = .fault := rfl
@[simp] theorem raise_resValue (r : FaultReason) : (raise r s).resValue = .record (faultRecord r s) := rfl
@[simp] theorem raise_ibuf (r : FaultReason) : (raise r s).ibuf = s.ibuf := rfl
@[simp] theorem raise_obuf (r : FaultReason) : (raise r s).obuf = s.obuf := rfl
@[simp] theorem raise_reqs (r : FaultReason) : (raise r s).reqs = s.reqs := rfl
@[simp] theorem raise_pins (r : FaultReason) : (raise r s).pins = s.pins := rfl
@[simp] theorem raise_op (r : FaultReason) : (raise r s).op = s.op := rfl
@[simp] theorem raise_done (r : FaultReason) : (raise r s).done = s.done := rfl
@[simp] theorem raise_work (r : FaultReason) : (raise r s).work = [] := rfl
@[simp] theorem raise_sent (r : FaultReason) : (raise r s).sent = s.sent := rfl

@[simp] theorem postFaulted_seq : (postFaulted s).seq = s.seq := rfl
@[simp] theorem postFaulted_busy : (postFaulted s).busy = s.busy := rfl
@[simp] theorem postFaulted_cal : (postFaulted s).cal = s.cal := rfl
@[simp] theorem postFaulted_calValid : (postFaulted s).calValid = s.calValid := rfl
@[simp] theorem postFaulted_relayShadow : (postFaulted s).relayShadow = s.relayShadow := rfl
@[simp] theorem postFaulted_relayValid : (postFaulted s).relayValid = s.relayValid := rfl
@[simp] theorem postFaulted_sampleTCode : (postFaulted s).sampleTCode = s.sampleTCode := rfl
@[simp] theorem postFaulted_sampleTValid : (postFaulted s).sampleTValid = s.sampleTValid := rfl
@[simp] theorem postFaulted_cfg : (postFaulted s).cfg = s.cfg := rfl
@[simp] theorem postFaulted_fault : (postFaulted s).fault = s.fault := rfl
@[simp] theorem postFaulted_xferValid : (postFaulted s).xferValid = s.xferValid := rfl
@[simp] theorem postFaulted_xfer : (postFaulted s).xfer = s.xfer := rfl
@[simp] theorem postFaulted_resValid : (postFaulted s).resValid = true := rfl
@[simp] theorem postFaulted_resKind : (postFaulted s).resKind = .faulted := rfl
@[simp] theorem postFaulted_resValue : (postFaulted s).resValue = .record s.fault := rfl
@[simp] theorem postFaulted_ibuf : (postFaulted s).ibuf = s.ibuf := rfl
@[simp] theorem postFaulted_obuf : (postFaulted s).obuf = s.obuf := rfl
@[simp] theorem postFaulted_reqs : (postFaulted s).reqs = s.reqs := rfl
@[simp] theorem postFaulted_pins : (postFaulted s).pins = s.pins := rfl
@[simp] theorem postFaulted_op : (postFaulted s).op = s.op := rfl
@[simp] theorem postFaulted_done : (postFaulted s).done = s.done := rfl
@[simp] theorem postFaulted_work : (postFaulted s).work = s.work := rfl
@[simp] theorem postFaulted_sent : (postFaulted s).sent = s.sent := rfl

@[simp] theorem offer_seq (x : Transfer) : (offer x s).seq = s.seq := rfl
@[simp] theorem offer_busy (x : Transfer) : (offer x s).busy = s.busy := rfl
@[simp] theorem offer_cal (x : Transfer) : (offer x s).cal = s.cal := rfl
@[simp] theorem offer_calValid (x : Transfer) : (offer x s).calValid = s.calValid := rfl
@[simp] theorem offer_relayShadow (x : Transfer) : (offer x s).relayShadow = s.relayShadow := rfl
@[simp] theorem offer_relayValid (x : Transfer) : (offer x s).relayValid = s.relayValid := rfl
@[simp] theorem offer_sampleTCode (x : Transfer) : (offer x s).sampleTCode = s.sampleTCode := rfl
@[simp] theorem offer_sampleTValid (x : Transfer) : (offer x s).sampleTValid = s.sampleTValid := rfl
@[simp] theorem offer_cfg (x : Transfer) : (offer x s).cfg = s.cfg := rfl
@[simp] theorem offer_fault (x : Transfer) : (offer x s).fault = s.fault := rfl
@[simp] theorem offer_xferValid (x : Transfer) : (offer x s).xferValid = true := rfl
@[simp] theorem offer_xfer (x : Transfer) : (offer x s).xfer = x := rfl
@[simp] theorem offer_resValid (x : Transfer) : (offer x s).resValid = s.resValid := rfl
@[simp] theorem offer_resKind (x : Transfer) : (offer x s).resKind = s.resKind := rfl
@[simp] theorem offer_resValue (x : Transfer) : (offer x s).resValue = s.resValue := rfl
@[simp] theorem offer_ibuf (x : Transfer) : (offer x s).ibuf = s.ibuf := rfl
@[simp] theorem offer_obuf (x : Transfer) : (offer x s).obuf = s.obuf := rfl
@[simp] theorem offer_reqs (x : Transfer) : (offer x s).reqs = s.reqs := rfl
@[simp] theorem offer_pins (x : Transfer) : (offer x s).pins = s.pins := rfl
@[simp] theorem offer_op (x : Transfer) : (offer x s).op = s.op := rfl
@[simp] theorem offer_done (x : Transfer) : (offer x s).done = s.done := rfl
@[simp] theorem offer_work (x : Transfer) : (offer x s).work = s.work := rfl
@[simp] theorem offer_sent (x : Transfer) : (offer x s).sent = s.sent ++ [x] := rfl

@[simp] theorem writeCal_seq (c : CalFile) : (writeCal c s).seq = s.seq := rfl
@[simp] theorem writeCal_busy (c : CalFile) : (writeCal c s).busy = s.busy := rfl
@[simp] theorem writeCal_cal (c : CalFile) : (writeCal c s).cal = c := rfl
@[simp] theorem writeCal_calValid (c : CalFile) : (writeCal c s).calValid = true := rfl
@[simp] theorem writeCal_relayShadow (c : CalFile) : (writeCal c s).relayShadow = s.relayShadow := rfl
@[simp] theorem writeCal_relayValid (c : CalFile) : (writeCal c s).relayValid = s.relayValid := rfl
@[simp] theorem writeCal_sampleTCode (c : CalFile) : (writeCal c s).sampleTCode = s.sampleTCode := rfl
@[simp] theorem writeCal_sampleTValid (c : CalFile) : (writeCal c s).sampleTValid = s.sampleTValid := rfl
@[simp] theorem writeCal_cfg (c : CalFile) : (writeCal c s).cfg = s.cfg := rfl
@[simp] theorem writeCal_fault (c : CalFile) : (writeCal c s).fault = s.fault := rfl
@[simp] theorem writeCal_xferValid (c : CalFile) : (writeCal c s).xferValid = s.xferValid := rfl
@[simp] theorem writeCal_xfer (c : CalFile) : (writeCal c s).xfer = s.xfer := rfl
@[simp] theorem writeCal_resValid (c : CalFile) : (writeCal c s).resValid = s.resValid := rfl
@[simp] theorem writeCal_resKind (c : CalFile) : (writeCal c s).resKind = s.resKind := rfl
@[simp] theorem writeCal_resValue (c : CalFile) : (writeCal c s).resValue = s.resValue := rfl
@[simp] theorem writeCal_ibuf (c : CalFile) : (writeCal c s).ibuf = s.ibuf := rfl
@[simp] theorem writeCal_obuf (c : CalFile) : (writeCal c s).obuf = s.obuf := rfl
@[simp] theorem writeCal_reqs (c : CalFile) : (writeCal c s).reqs = s.reqs := rfl
@[simp] theorem writeCal_pins (c : CalFile) : (writeCal c s).pins = s.pins := rfl
@[simp] theorem writeCal_op (c : CalFile) : (writeCal c s).op = s.op := rfl
@[simp] theorem writeCal_done (c : CalFile) : (writeCal c s).done = s.done := rfl
@[simp] theorem writeCal_work (c : CalFile) : (writeCal c s).work = s.work := rfl
@[simp] theorem writeCal_sent (c : CalFile) : (writeCal c s).sent = s.sent := rfl

@[simp] theorem writeRelayShadow_seq (m : RelayMask) : (writeRelayShadow m s).seq = s.seq := rfl
@[simp] theorem writeRelayShadow_busy (m : RelayMask) : (writeRelayShadow m s).busy = s.busy := rfl
@[simp] theorem writeRelayShadow_cal (m : RelayMask) : (writeRelayShadow m s).cal = s.cal := rfl
@[simp] theorem writeRelayShadow_calValid (m : RelayMask) : (writeRelayShadow m s).calValid = s.calValid := rfl
@[simp] theorem writeRelayShadow_relayShadow (m : RelayMask) : (writeRelayShadow m s).relayShadow = m := rfl
@[simp] theorem writeRelayShadow_relayValid (m : RelayMask) : (writeRelayShadow m s).relayValid = true := rfl
@[simp] theorem writeRelayShadow_sampleTCode (m : RelayMask) : (writeRelayShadow m s).sampleTCode = s.sampleTCode := rfl
@[simp] theorem writeRelayShadow_sampleTValid (m : RelayMask) : (writeRelayShadow m s).sampleTValid = s.sampleTValid := rfl
@[simp] theorem writeRelayShadow_cfg (m : RelayMask) : (writeRelayShadow m s).cfg = s.cfg := rfl
@[simp] theorem writeRelayShadow_fault (m : RelayMask) : (writeRelayShadow m s).fault = s.fault := rfl
@[simp] theorem writeRelayShadow_xferValid (m : RelayMask) : (writeRelayShadow m s).xferValid = s.xferValid := rfl
@[simp] theorem writeRelayShadow_xfer (m : RelayMask) : (writeRelayShadow m s).xfer = s.xfer := rfl
@[simp] theorem writeRelayShadow_resValid (m : RelayMask) : (writeRelayShadow m s).resValid = s.resValid := rfl
@[simp] theorem writeRelayShadow_resKind (m : RelayMask) : (writeRelayShadow m s).resKind = s.resKind := rfl
@[simp] theorem writeRelayShadow_resValue (m : RelayMask) : (writeRelayShadow m s).resValue = s.resValue := rfl
@[simp] theorem writeRelayShadow_ibuf (m : RelayMask) : (writeRelayShadow m s).ibuf = s.ibuf := rfl
@[simp] theorem writeRelayShadow_obuf (m : RelayMask) : (writeRelayShadow m s).obuf = s.obuf := rfl
@[simp] theorem writeRelayShadow_reqs (m : RelayMask) : (writeRelayShadow m s).reqs = s.reqs := rfl
@[simp] theorem writeRelayShadow_pins (m : RelayMask) : (writeRelayShadow m s).pins = s.pins := rfl
@[simp] theorem writeRelayShadow_op (m : RelayMask) : (writeRelayShadow m s).op = s.op := rfl
@[simp] theorem writeRelayShadow_done (m : RelayMask) : (writeRelayShadow m s).done = s.done := rfl
@[simp] theorem writeRelayShadow_work (m : RelayMask) : (writeRelayShadow m s).work = s.work := rfl
@[simp] theorem writeRelayShadow_sent (m : RelayMask) : (writeRelayShadow m s).sent = s.sent := rfl

@[simp] theorem writeSampleT_seq (c : BitVec 4) : (writeSampleT c s).seq = s.seq := rfl
@[simp] theorem writeSampleT_busy (c : BitVec 4) : (writeSampleT c s).busy = s.busy := rfl
@[simp] theorem writeSampleT_cal (c : BitVec 4) : (writeSampleT c s).cal = s.cal := rfl
@[simp] theorem writeSampleT_calValid (c : BitVec 4) : (writeSampleT c s).calValid = s.calValid := rfl
@[simp] theorem writeSampleT_relayShadow (c : BitVec 4) : (writeSampleT c s).relayShadow = s.relayShadow := rfl
@[simp] theorem writeSampleT_relayValid (c : BitVec 4) : (writeSampleT c s).relayValid = s.relayValid := rfl
@[simp] theorem writeSampleT_sampleTCode (c : BitVec 4) : (writeSampleT c s).sampleTCode = c := rfl
@[simp] theorem writeSampleT_sampleTValid (c : BitVec 4) : (writeSampleT c s).sampleTValid = true := rfl
@[simp] theorem writeSampleT_cfg (c : BitVec 4) : (writeSampleT c s).cfg = s.cfg := rfl
@[simp] theorem writeSampleT_fault (c : BitVec 4) : (writeSampleT c s).fault = s.fault := rfl
@[simp] theorem writeSampleT_xferValid (c : BitVec 4) : (writeSampleT c s).xferValid = s.xferValid := rfl
@[simp] theorem writeSampleT_xfer (c : BitVec 4) : (writeSampleT c s).xfer = s.xfer := rfl
@[simp] theorem writeSampleT_resValid (c : BitVec 4) : (writeSampleT c s).resValid = s.resValid := rfl
@[simp] theorem writeSampleT_resKind (c : BitVec 4) : (writeSampleT c s).resKind = s.resKind := rfl
@[simp] theorem writeSampleT_resValue (c : BitVec 4) : (writeSampleT c s).resValue = s.resValue := rfl
@[simp] theorem writeSampleT_ibuf (c : BitVec 4) : (writeSampleT c s).ibuf = s.ibuf := rfl
@[simp] theorem writeSampleT_obuf (c : BitVec 4) : (writeSampleT c s).obuf = s.obuf := rfl
@[simp] theorem writeSampleT_reqs (c : BitVec 4) : (writeSampleT c s).reqs = s.reqs := rfl
@[simp] theorem writeSampleT_pins (c : BitVec 4) : (writeSampleT c s).pins = s.pins := rfl
@[simp] theorem writeSampleT_op (c : BitVec 4) : (writeSampleT c s).op = s.op := rfl
@[simp] theorem writeSampleT_done (c : BitVec 4) : (writeSampleT c s).done = s.done := rfl
@[simp] theorem writeSampleT_work (c : BitVec 4) : (writeSampleT c s).work = s.work := rfl
@[simp] theorem writeSampleT_sent (c : BitVec 4) : (writeSampleT c s).sent = s.sent := rfl

@[simp] theorem writeCfg_seq (c : InstrumentConfig) : (writeCfg c s).seq = s.seq := rfl
@[simp] theorem writeCfg_busy (c : InstrumentConfig) : (writeCfg c s).busy = s.busy := rfl
@[simp] theorem writeCfg_cal (c : InstrumentConfig) : (writeCfg c s).cal = s.cal := rfl
@[simp] theorem writeCfg_calValid (c : InstrumentConfig) : (writeCfg c s).calValid = s.calValid := rfl
@[simp] theorem writeCfg_relayShadow (c : InstrumentConfig) : (writeCfg c s).relayShadow = s.relayShadow := rfl
@[simp] theorem writeCfg_relayValid (c : InstrumentConfig) : (writeCfg c s).relayValid = s.relayValid := rfl
@[simp] theorem writeCfg_sampleTCode (c : InstrumentConfig) : (writeCfg c s).sampleTCode = s.sampleTCode := rfl
@[simp] theorem writeCfg_sampleTValid (c : InstrumentConfig) : (writeCfg c s).sampleTValid = s.sampleTValid := rfl
@[simp] theorem writeCfg_cfg (c : InstrumentConfig) : (writeCfg c s).cfg = c := rfl
@[simp] theorem writeCfg_fault (c : InstrumentConfig) : (writeCfg c s).fault = s.fault := rfl
@[simp] theorem writeCfg_xferValid (c : InstrumentConfig) : (writeCfg c s).xferValid = s.xferValid := rfl
@[simp] theorem writeCfg_xfer (c : InstrumentConfig) : (writeCfg c s).xfer = s.xfer := rfl
@[simp] theorem writeCfg_resValid (c : InstrumentConfig) : (writeCfg c s).resValid = s.resValid := rfl
@[simp] theorem writeCfg_resKind (c : InstrumentConfig) : (writeCfg c s).resKind = s.resKind := rfl
@[simp] theorem writeCfg_resValue (c : InstrumentConfig) : (writeCfg c s).resValue = s.resValue := rfl
@[simp] theorem writeCfg_ibuf (c : InstrumentConfig) : (writeCfg c s).ibuf = s.ibuf := rfl
@[simp] theorem writeCfg_obuf (c : InstrumentConfig) : (writeCfg c s).obuf = s.obuf := rfl
@[simp] theorem writeCfg_reqs (c : InstrumentConfig) : (writeCfg c s).reqs = s.reqs := rfl
@[simp] theorem writeCfg_pins (c : InstrumentConfig) : (writeCfg c s).pins = s.pins := rfl
@[simp] theorem writeCfg_op (c : InstrumentConfig) : (writeCfg c s).op = s.op := rfl
@[simp] theorem writeCfg_done (c : InstrumentConfig) : (writeCfg c s).done = s.done := rfl
@[simp] theorem writeCfg_work (c : InstrumentConfig) : (writeCfg c s).work = s.work := rfl
@[simp] theorem writeCfg_sent (c : InstrumentConfig) : (writeCfg c s).sent = s.sent := rfl

@[simp] theorem writeSeq_seq (k : BitVec 4) : (writeSeq k s).seq = k := rfl
@[simp] theorem writeSeq_busy (k : BitVec 4) : (writeSeq k s).busy = s.busy := rfl
@[simp] theorem writeSeq_cal (k : BitVec 4) : (writeSeq k s).cal = s.cal := rfl
@[simp] theorem writeSeq_calValid (k : BitVec 4) : (writeSeq k s).calValid = s.calValid := rfl
@[simp] theorem writeSeq_relayShadow (k : BitVec 4) : (writeSeq k s).relayShadow = s.relayShadow := rfl
@[simp] theorem writeSeq_relayValid (k : BitVec 4) : (writeSeq k s).relayValid = s.relayValid := rfl
@[simp] theorem writeSeq_sampleTCode (k : BitVec 4) : (writeSeq k s).sampleTCode = s.sampleTCode := rfl
@[simp] theorem writeSeq_sampleTValid (k : BitVec 4) : (writeSeq k s).sampleTValid = s.sampleTValid := rfl
@[simp] theorem writeSeq_cfg (k : BitVec 4) : (writeSeq k s).cfg = s.cfg := rfl
@[simp] theorem writeSeq_fault (k : BitVec 4) : (writeSeq k s).fault = s.fault := rfl
@[simp] theorem writeSeq_xferValid (k : BitVec 4) : (writeSeq k s).xferValid = s.xferValid := rfl
@[simp] theorem writeSeq_xfer (k : BitVec 4) : (writeSeq k s).xfer = s.xfer := rfl
@[simp] theorem writeSeq_resValid (k : BitVec 4) : (writeSeq k s).resValid = s.resValid := rfl
@[simp] theorem writeSeq_resKind (k : BitVec 4) : (writeSeq k s).resKind = s.resKind := rfl
@[simp] theorem writeSeq_resValue (k : BitVec 4) : (writeSeq k s).resValue = s.resValue := rfl
@[simp] theorem writeSeq_ibuf (k : BitVec 4) : (writeSeq k s).ibuf = s.ibuf := rfl
@[simp] theorem writeSeq_obuf (k : BitVec 4) : (writeSeq k s).obuf = s.obuf := rfl
@[simp] theorem writeSeq_reqs (k : BitVec 4) : (writeSeq k s).reqs = s.reqs := rfl
@[simp] theorem writeSeq_pins (k : BitVec 4) : (writeSeq k s).pins = s.pins := rfl
@[simp] theorem writeSeq_op (k : BitVec 4) : (writeSeq k s).op = s.op := rfl
@[simp] theorem writeSeq_done (k : BitVec 4) : (writeSeq k s).done = s.done := rfl
@[simp] theorem writeSeq_work (k : BitVec 4) : (writeSeq k s).work = s.work := rfl
@[simp] theorem writeSeq_sent (k : BitVec 4) : (writeSeq k s).sent = s.sent := rfl

@[simp] theorem withBlock_seq (b : List Byte) : (withBlock b s).seq = s.seq := rfl
@[simp] theorem withBlock_busy (b : List Byte) : (withBlock b s).busy = s.busy := rfl
@[simp] theorem withBlock_cal (b : List Byte) : (withBlock b s).cal = s.cal := rfl
@[simp] theorem withBlock_calValid (b : List Byte) : (withBlock b s).calValid = s.calValid := rfl
@[simp] theorem withBlock_relayShadow (b : List Byte) : (withBlock b s).relayShadow = s.relayShadow := rfl
@[simp] theorem withBlock_relayValid (b : List Byte) : (withBlock b s).relayValid = s.relayValid := rfl
@[simp] theorem withBlock_sampleTCode (b : List Byte) : (withBlock b s).sampleTCode = s.sampleTCode := rfl
@[simp] theorem withBlock_sampleTValid (b : List Byte) : (withBlock b s).sampleTValid = s.sampleTValid := rfl
@[simp] theorem withBlock_cfg (b : List Byte) : (withBlock b s).cfg = s.cfg := rfl
@[simp] theorem withBlock_fault (b : List Byte) : (withBlock b s).fault = s.fault := rfl
@[simp] theorem withBlock_xferValid (b : List Byte) : (withBlock b s).xferValid = s.xferValid := rfl
@[simp] theorem withBlock_xfer (b : List Byte) : (withBlock b s).xfer = s.xfer := rfl
@[simp] theorem withBlock_resValid (b : List Byte) : (withBlock b s).resValid = s.resValid := rfl
@[simp] theorem withBlock_resKind (b : List Byte) : (withBlock b s).resKind = s.resKind := rfl
@[simp] theorem withBlock_resValue (b : List Byte) : (withBlock b s).resValue = s.resValue := rfl
@[simp] theorem withBlock_ibuf (b : List Byte) : (withBlock b s).ibuf = Memory.cellsAt 0 b := rfl
@[simp] theorem withBlock_obuf (b : List Byte) : (withBlock b s).obuf = s.obuf := rfl
@[simp] theorem withBlock_reqs (b : List Byte) : (withBlock b s).reqs = s.reqs := rfl
@[simp] theorem withBlock_pins (b : List Byte) : (withBlock b s).pins = s.pins := rfl
@[simp] theorem withBlock_op (b : List Byte) : (withBlock b s).op = s.op := rfl
@[simp] theorem withBlock_done (b : List Byte) : (withBlock b s).done = s.done := rfl
@[simp] theorem withBlock_work (b : List Byte) : (withBlock b s).work = s.work := rfl
@[simp] theorem withBlock_sent (b : List Byte) : (withBlock b s).sent = s.sent := rfl

@[simp] theorem resetRegs_seq : (resetRegs s).seq = 0 := rfl
@[simp] theorem resetRegs_busy : (resetRegs s).busy = false := rfl
@[simp] theorem resetRegs_cal : (resetRegs s).cal = calAtReset := rfl
@[simp] theorem resetRegs_calValid : (resetRegs s).calValid = false := rfl
@[simp] theorem resetRegs_relayShadow : (resetRegs s).relayShadow = relayShadowAtReset := rfl
@[simp] theorem resetRegs_relayValid : (resetRegs s).relayValid = false := rfl
@[simp] theorem resetRegs_sampleTCode : (resetRegs s).sampleTCode = 0 := rfl
@[simp] theorem resetRegs_sampleTValid : (resetRegs s).sampleTValid = false := rfl
@[simp] theorem resetRegs_cfg : (resetRegs s).cfg = Config.cfgDefault := rfl
@[simp] theorem resetRegs_fault : (resetRegs s).fault = .none := rfl
@[simp] theorem resetRegs_xferValid : (resetRegs s).xferValid = false := rfl
@[simp] theorem resetRegs_xfer : (resetRegs s).xfer = .bulkOut 0 [] := rfl
@[simp] theorem resetRegs_resValid : (resetRegs s).resValid = false := rfl
@[simp] theorem resetRegs_resKind : (resetRegs s).resKind = .ok := rfl
@[simp] theorem resetRegs_resValue : (resetRegs s).resValue = .count 0 := rfl
@[simp] theorem resetRegs_ibuf : (resetRegs s).ibuf = [] := rfl
@[simp] theorem resetRegs_obuf : (resetRegs s).obuf = [] := rfl
@[simp] theorem resetRegs_reqs : (resetRegs s).reqs = s.reqs := rfl
@[simp] theorem resetRegs_pins : (resetRegs s).pins = s.pins := rfl
@[simp] theorem resetRegs_op : (resetRegs s).op = 0 := rfl
@[simp] theorem resetRegs_done : (resetRegs s).done = 0 := rfl
@[simp] theorem resetRegs_work : (resetRegs s).work = [] := rfl
@[simp] theorem resetRegs_sent : (resetRegs s).sent = s.sent := rfl

@[simp] theorem complete_seq (e : Effect) (ps : List Pin) : (complete e ps s).seq = s.seq := by cases e <;> rfl
@[simp] theorem complete_busy (e : Effect) (ps : List Pin) : (complete e ps s).busy = s.busy := by cases e <;> rfl
@[simp] theorem complete_cal (e : Effect) (ps : List Pin) : (complete e ps s).cal = s.cal := by cases e <;> rfl
@[simp] theorem complete_calValid (e : Effect) (ps : List Pin) : (complete e ps s).calValid = s.calValid := by cases e <;> rfl
@[simp] theorem complete_cfg (e : Effect) (ps : List Pin) : (complete e ps s).cfg = s.cfg := by cases e <;> rfl
@[simp] theorem complete_fault (e : Effect) (ps : List Pin) : (complete e ps s).fault = s.fault := by cases e <;> rfl
@[simp] theorem complete_xferValid (e : Effect) (ps : List Pin) : (complete e ps s).xferValid = false := by cases e <;> rfl
@[simp] theorem complete_xfer (e : Effect) (ps : List Pin) : (complete e ps s).xfer = s.xfer := by cases e <;> rfl
@[simp] theorem complete_resValid (e : Effect) (ps : List Pin) : (complete e ps s).resValid = s.resValid := by cases e <;> rfl
@[simp] theorem complete_resKind (e : Effect) (ps : List Pin) : (complete e ps s).resKind = s.resKind := by cases e <;> rfl
@[simp] theorem complete_resValue (e : Effect) (ps : List Pin) : (complete e ps s).resValue = s.resValue := by cases e <;> rfl
@[simp] theorem complete_ibuf (e : Effect) (ps : List Pin) : (complete e ps s).ibuf = s.ibuf := by cases e <;> rfl
@[simp] theorem complete_obuf (e : Effect) (ps : List Pin) : (complete e ps s).obuf = s.obuf := by cases e <;> rfl
@[simp] theorem complete_reqs (e : Effect) (ps : List Pin) : (complete e ps s).reqs = s.reqs := by cases e <;> rfl
@[simp] theorem complete_pins (e : Effect) (ps : List Pin) : (complete e ps s).pins = ps := by cases e <;> rfl
@[simp] theorem complete_op (e : Effect) (ps : List Pin) : (complete e ps s).op = s.op := by cases e <;> rfl
@[simp] theorem complete_done (e : Effect) (ps : List Pin) : (complete e ps s).done = s.done + 1 := by cases e <;> rfl
@[simp] theorem complete_work (e : Effect) (ps : List Pin) : (complete e ps s).work = s.work := by cases e <;> rfl
@[simp] theorem complete_sent (e : Effect) (ps : List Pin) : (complete e ps s).sent = s.sent := by cases e <;> rfl
@[simp] theorem complete_none_relayShadow (ps : List Pin) : (complete (.none) ps s).relayShadow = s.relayShadow := rfl
@[simp] theorem complete_none_relayValid (ps : List Pin) : (complete (.none) ps s).relayValid = s.relayValid := rfl
@[simp] theorem complete_none_sampleTCode (ps : List Pin) : (complete (.none) ps s).sampleTCode = s.sampleTCode := rfl
@[simp] theorem complete_none_sampleTValid (ps : List Pin) : (complete (.none) ps s).sampleTValid = s.sampleTValid := rfl
@[simp] theorem complete_relayShadow_relayShadow (m : RelayMask) (ps : List Pin) : (complete (.relayShadow m) ps s).relayShadow = m := rfl
@[simp] theorem complete_relayShadow_relayValid (m : RelayMask) (ps : List Pin) : (complete (.relayShadow m) ps s).relayValid = true := rfl
@[simp] theorem complete_relayShadow_sampleTCode (m : RelayMask) (ps : List Pin) : (complete (.relayShadow m) ps s).sampleTCode = s.sampleTCode := rfl
@[simp] theorem complete_relayShadow_sampleTValid (m : RelayMask) (ps : List Pin) : (complete (.relayShadow m) ps s).sampleTValid = s.sampleTValid := rfl
@[simp] theorem complete_sampleT_relayShadow (c : BitVec 4) (ps : List Pin) : (complete (.sampleT c) ps s).relayShadow = s.relayShadow := rfl
@[simp] theorem complete_sampleT_relayValid (c : BitVec 4) (ps : List Pin) : (complete (.sampleT c) ps s).relayValid = s.relayValid := rfl
@[simp] theorem complete_sampleT_sampleTCode (c : BitVec 4) (ps : List Pin) : (complete (.sampleT c) ps s).sampleTCode = c := rfl
@[simp] theorem complete_sampleT_sampleTValid (c : BitVec 4) (ps : List Pin) : (complete (.sampleT c) ps s).sampleTValid = true := rfl

end Sys2Proof.Machine
end

