-- ==== Sys2Proof/Laws/Memory.lean ====
section
/-! SUPPORT. The laws of the two buffers: read after write, the canonical form is kept, and what
MemRead and MemWrite can do. -/

namespace Sys2Proof.Machine

theorem cellsAt_append (a : Nat) (xs ys : List Byte) :
    Memory.cellsAt a (xs ++ ys) = Memory.cellsAt a xs ++ Memory.cellsAt (a + xs.length) ys := by
  induction xs generalizing a with
  | nil => rfl
  | cons x xs ih =>
    have h : a + 1 + xs.length = a + (xs.length + 1) := by omega
    simp [Memory.cellsAt, ih, h]

theorem mem_cellsAt {a : Nat} {bs : List Byte} {c : Host.Cell} (h : c ∈ Memory.cellsAt a bs) :
    a ≤ c.1 ∧ c.1 < a + bs.length := by
  induction bs generalizing a with
  | nil => simp [Memory.cellsAt] at h
  | cons b bs ih =>
    rcases List.mem_cons.1 h with rfl | h
    · simp
    · have := ih h
      simp only [List.length_cons]
      omega

theorem map_snd_cellsAt (a : Nat) (bs : List Byte) : (Memory.cellsAt a bs).map (·.2) = bs := by
  induction bs generalizing a with
  | nil => rfl
  | cons b bs ih => simp [Memory.cellsAt, ih]

theorem byteAt_append (m n : Memory) (k : Nat) :
    Memory.byteAt (m ++ n) k = (Memory.byteAt m k).or (Memory.byteAt n k) := by
  simp only [Memory.byteAt, List.find?_append]
  cases m.find? (fun c => c.1 == k) <;> rfl

theorem byteAt_filter (m : Memory) (p : Nat → Bool) (k : Nat) :
    Memory.byteAt (m.filter (fun c => p c.1)) k = if p k then Memory.byteAt m k else none := by
  induction m with
  | nil => simp [Memory.byteAt]
  | cons c m ih =>
    simp only [Memory.byteAt] at *
    have hk : c.1 = k → (c.1 == k) = true := by simp
    by_cases hc : c.1 = k
    · cases hp : p c.1 with
      | false =>
        have hk' : p k = false := hc ▸ hp
        rw [List.filter_cons_of_neg (by simp [hp]), ih]
        simp [hk']
      | true =>
        have hk' : p k = true := hc ▸ hp
        rw [List.filter_cons_of_pos (by simp [hp]), List.find?_cons, List.find?_cons, hk hc]
        simp [hk']
    · have hn : (c.1 == k) = false := by simpa using hc
      cases hp : p c.1 with
      | false => rw [List.filter_cons_of_neg (by simp [hp]), ih, List.find?_cons, hn]
      | true => rw [List.filter_cons_of_pos (by simp [hp]), List.find?_cons, List.find?_cons, hn, ih]

theorem byteAt_cellsAt (a : Nat) (bs : List Byte) (k : Nat) :
    Memory.byteAt (Memory.cellsAt a bs) k = if a ≤ k then bs[k - a]? else none := by
  induction bs generalizing a with
  | nil => simp [Memory.byteAt, Memory.cellsAt]
  | cons b bs ih =>
    by_cases hk : a = k
    · simp [Memory.byteAt, Memory.cellsAt, hk]
    · have := ih (a + 1)
      have hb : (a == k) = false := by simpa using hk
      simp only [Memory.byteAt, Memory.cellsAt, List.find?_cons, hb] at *
      rw [this]
      by_cases h : a ≤ k
      · have h1 : k - a = (k - (a + 1)) + 1 := by omega
        have h2 : a + 1 ≤ k := by omega
        rw [if_pos h2, if_pos h, h1, List.getElem?_cons_succ]
      · rw [if_neg (by omega), if_neg h]

/-- Read after write: the written bytes read as written, every other address as before. -/
theorem byteAt_write (m : Memory) (a : Nat) (bs : List Byte) (k : Nat) :
    Memory.byteAt (Memory.write m a bs) k =
      if a ≤ k ∧ k < a + bs.length then bs[k - a]? else Memory.byteAt m k := by
  have hlo := byteAt_filter m (fun x => decide (x < a)) k
  have hhi := byteAt_filter m (fun x => decide (a + bs.length ≤ x)) k
  simp only [Memory.write, byteAt_append, byteAt_cellsAt, hlo, hhi, decide_eq_true_eq]
  by_cases h1 : k < a
  · have : ¬ a ≤ k := by omega
    have h3 : ¬ a + bs.length ≤ k := by omega
    simp [h1, this, h3]
  · by_cases h2 : a + bs.length ≤ k
    · have h3 : bs.length ≤ k - a := by omega
      have h4 : ¬ k < a + bs.length := by omega
      have h5 : a ≤ k := by omega
      simp [h1, h2, h4, h5, h3]
    · have h5 : a ≤ k := by omega
      have h4 : k < a + bs.length := by omega
      have h6 : k - a < bs.length := by omega
      simp [h1, h2, h4, h5, h6]

theorem byteAt_write_outside {m : Memory} {a : Nat} {bs : List Byte} {k : Nat} (h : ¬ (a ≤ k ∧ k < a + bs.length)) :
    Memory.byteAt (Memory.write m a bs) k = Memory.byteAt m k := by
  rw [byteAt_write, if_neg h]

theorem rising_iff (m : Memory) : Memory.rising m = true ↔ m.Pairwise (fun c d => c.1 < d.1) := by
  induction m with
  | nil => simp [Memory.rising]
  | cons c m ih =>
    cases m with
    | nil => simp [Memory.rising]
    | cons d m =>
      simp only [Memory.rising, Bool.and_eq_true, decide_eq_true_eq, ih]
      constructor
      · rintro ⟨h1, h2⟩
        refine List.pairwise_cons.2 ⟨fun e he => ?_, h2⟩
        rcases List.mem_cons.1 he with rfl | he
        · exact h1
        · exact Nat.lt_trans h1 ((List.pairwise_cons.1 h2).1 e he)
      · intro h
        have h := List.pairwise_cons.1 h
        exact ⟨h.1 d (by simp), h.2⟩

theorem rising_cellsAt (a : Nat) (bs : List Byte) : (Memory.cellsAt a bs).Pairwise (fun c d => c.1 < d.1) := by
  induction bs generalizing a with
  | nil => simp [Memory.cellsAt]
  | cons b bs ih =>
    refine List.pairwise_cons.2 ⟨fun d hd => ?_, ih _⟩
    have := (mem_cellsAt hd).1
    simp only
    omega

/-- MemWrite keeps the canonical form of a buffer. -/
theorem wf_write {size : Nat} {m : Memory} {a : Nat} {bs : List Byte} (h : Memory.wf size m = true)
    (hb : a + bs.length ≤ size) : Memory.wf size (Memory.write m a bs) = true := by
  simp only [Memory.wf, Bool.and_eq_true, rising_iff, List.all_eq_true, decide_eq_true_eq] at *
  obtain ⟨hr, hs⟩ := h
  constructor
  · refine List.pairwise_append.2 ⟨hr.filter _, List.pairwise_append.2 ⟨rising_cellsAt a bs, hr.filter _, ?_⟩, ?_⟩
    · intro c hc d hd
      have h1 := (mem_cellsAt hc).2
      have h2 := (List.mem_filter.1 hd).2
      simp only [decide_eq_true_eq] at h2
      omega
    · intro c hc d hd
      have h1 := (List.mem_filter.1 hc).2
      simp only [decide_eq_true_eq] at h1
      rcases List.mem_append.1 hd with hd | hd
      · have := (mem_cellsAt hd).1
        omega
      · have h2 := (List.mem_filter.1 hd).2
        simp only [decide_eq_true_eq] at h2
        omega
  · intro c hc
    simp only [Memory.write, List.mem_append, List.mem_filter] at hc
    rcases hc with hc | hc | hc
    · exact hs c hc.1
    · have := (mem_cellsAt hc).2
      omega
    · exact hs c hc.1

theorem wf_cellsAt {size : Nat} {bs : List Byte} (hb : bs.length ≤ size) :
    Memory.wf size (Memory.cellsAt 0 bs) = true := by
  simp only [Memory.wf, Bool.and_eq_true, rising_iff, List.all_eq_true, decide_eq_true_eq]
  refine ⟨rising_cellsAt 0 bs, fun c hc => ?_⟩
  have := (mem_cellsAt hc).2
  omega

theorem wf_nil (size : Nat) : Memory.wf size [] = true := rfl

/-- The bytes of a placed block read back as the block. -/
theorem read_cellsAt (bs : List Byte) : Memory.read (Memory.cellsAt 0 bs) 0 bs.length = some bs := by
  have h : (Memory.cellsAt 0 bs).filter (fun c => decide (0 ≤ c.1 ∧ c.1 < 0 + bs.length)) = Memory.cellsAt 0 bs := by
    refine List.filter_eq_self.2 fun c hc => ?_
    have := mem_cellsAt hc
    simpa using this.2
  simp only [Memory.read, h, map_snd_cellsAt, if_true]

/-- Two writes side by side are one write. -/
theorem write_write (m : Memory) (a : Nat) (xs ys : List Byte) :
    Memory.write (Memory.write m a xs) (a + xs.length) ys = Memory.write m a (xs ++ ys) := by
  simp only [Memory.write, cellsAt_append, List.filter_append, List.filter_filter, List.length_append]
  have h1 : (Memory.cellsAt a xs).filter (fun c => decide (c.1 < a + xs.length)) = Memory.cellsAt a xs := by
    refine List.filter_eq_self.2 fun c hc => ?_
    simpa using (mem_cellsAt hc).2
  have h2 : (Memory.cellsAt a xs).filter (fun c => decide (a + xs.length + ys.length ≤ c.1)) = [] := by
    refine List.filter_eq_nil_iff.2 fun c hc => ?_
    have := (mem_cellsAt hc).2
    simp only [decide_eq_true_eq]
    omega
  have h3 : (fun c : Host.Cell => decide (c.1 < a + xs.length) && decide (c.1 < a)) = fun c => decide (c.1 < a) := by
    funext c
    by_cases h : c.1 < a
    · have : c.1 < a + xs.length := by omega
      simp [h, this]
    · simp [h]
  have h4 : (fun c : Host.Cell => decide (c.1 < a + xs.length) && decide (a + xs.length ≤ c.1)) = fun _ => false := by
    funext c
    by_cases h : c.1 < a + xs.length
    · have : ¬ a + xs.length ≤ c.1 := by omega
      simp [this]
    · simp [h]
  have h5 : (fun c : Host.Cell => decide (a + xs.length + ys.length ≤ c.1) && decide (c.1 < a)) = fun _ => false := by
    funext c
    by_cases h : c.1 < a
    · have : ¬ a + xs.length + ys.length ≤ c.1 := by omega
      simp [this]
    · simp [h]
  have h6 : (fun c : Host.Cell => decide (a + xs.length + ys.length ≤ c.1) && decide (a + xs.length ≤ c.1))
      = fun c => decide (a + (xs.length + ys.length) ≤ c.1) := by
    funext c
    by_cases h : a + (xs.length + ys.length) ≤ c.1
    · have h7 : a + xs.length ≤ c.1 := by omega
      have h8 : a + xs.length + ys.length ≤ c.1 := by omega
      simp [h, h7, h8]
    · have h8 : ¬ a + xs.length + ys.length ≤ c.1 := by omega
      simp [h, h8]
  simp [h1, h2, h3, h4, h5, h6]

/-- MemWrite inside OBUF. -/
theorem memWrite_ok {a : Nat} {bs : List Byte} {s : State} (h : a + bs.length ≤ obufSize) :
    memWrite a bs s = .ok { s with obuf := Memory.write s.obuf a bs } := by
  rw [memWrite, if_pos h]

/-- All that MemWrite can do when it succeeds. -/
theorem memWrite_eq_ok {a : Nat} {bs : List Byte} {s t : State} (h : memWrite a bs s = .ok t) :
    a + bs.length ≤ obufSize ∧ t = { s with obuf := Memory.write s.obuf a bs } := by
  unfold memWrite at h
  split at h
  · exact ⟨‹_›, (Except.ok.inj h).symm⟩
  · cases h

/-- A block no longer than IBUF is placed. -/
theorem placeBlock_ok {block : List Byte} {s : State} (h : block.length ≤ ibufSize) :
    placeBlock block s = .ok (withBlock block s) := by
  rw [placeBlock, if_pos h]

/-- All that placing a block can do when it succeeds. -/
theorem placeBlock_eq_ok {block : List Byte} {s t : State} (h : placeBlock block s = .ok t) :
    block.length ≤ ibufSize ∧ t = withBlock block s := by
  unfold placeBlock at h
  split at h
  · exact ⟨‹_›, (Except.ok.inj h).symm⟩
  · cases h

/-- MemRead of a whole placed block gives the block. -/
theorem memRead_withBlock {block : List Byte} {s : State} (h : block.length = 20480) :
    memRead 0 20480 (withBlock block s) = .ok block := by
  have hr := read_cellsAt block
  rw [h] at hr
  simp only [memRead, ibufSize, withBlock_ibuf, hr]
  rfl

end Sys2Proof.Machine
end

