-- ==== Sys2Proof/Laws/Buffers.lean ====
section
/-! SUPPORT. What the frame operations do to the two buffers, said once for each body. -/

namespace Sys2Proof.Machine

/-- A body that settles to a next state ended without a stop. -/
theorem settle_next {e : Except Fault State} {t : State} (h : settle e = .next t) : e = .ok t := by
  cases e with
  | ok s => exact congrArg Except.ok (Host.Outcome.next.inj h)
  | error f => cases h

/-- The 32 bytes of the data header. -/
def headerBytes (s : State) : List Byte :=
  le16 1 ++ (le16 32 ++ (le32 (f32 s.cfg.timeBase.val) ++ (le32 (f32 (stair s.sampleTCode)) ++ zeros 20)))

/-- The 32 bytes of the stopped frame. -/
def stoppedBytes : List Byte := le16 2 ++ (le16 32 ++ zeros 28)

theorem headerBytes_length (s : State) : (headerBytes s).length = 32 := by
  simp [headerBytes, le16, le32, zeros, leBytes]

theorem stoppedBytes_length : stoppedBytes.length = 32 := by decide

theorem rotateBlock_length (tp : Nat) (block : List Byte) : (rotateBlock tp block).length = block.length := by
  simp only [rotateBlock, List.length_append, List.length_drop, List.length_take]
  omega

/-- The data header's five writes are one write of its 32 bytes. -/
theorem dataHeaderBody_ok (s : State) :
    dataHeaderBody s = .ok { s with obuf := Memory.write s.obuf 0 (headerBytes s) } := by
  have l2 (v : HalfWord) : (le16 v).length = 2 := by simp [le16, leBytes]
  have l4 (v : Word) : (le32 v).length = 4 := by simp [le32, leBytes]
  have lz (n : Nat) : (zeros n).length = n := by simp [zeros]
  have w (m : Memory) (a b : Nat) (xs ys : List Byte) (h : b = a + xs.length) :
      Memory.write (Memory.write m a xs) b ys = Memory.write m a (xs ++ ys) := by rw [h, write_write]
  unfold dataHeaderBody
  rw [memWrite_ok (by rw [l2]; decide)]
  simp only [bind, Except.bind]
  rw [memWrite_ok (by rw [l2]; decide)]
  dsimp only
  rw [memWrite_ok (by rw [l4]; decide)]
  dsimp only
  rw [memWrite_ok (by rw [l4]; decide)]
  dsimp only
  rw [memWrite_ok (by rw [lz]; decide)]
  dsimp only
  rw [w _ 0 2 _ _ (by rw [l2]), w _ 0 4 _ _ (by simp only [List.length_append, l2]),
    w _ 0 8 _ _ (by simp only [List.length_append, l2, l4]), w _ 0 12 _ _ (by simp only [List.length_append, l2, l4])]
  simp only [headerBytes, List.append_assoc]

/-- The stopped frame's three writes are one write of its 32 bytes. -/
theorem stoppedHeaderBody_ok (s : State) :
    stoppedHeaderBody s = .ok { s with obuf := Memory.write s.obuf 0 stoppedBytes } := by
  have l2 (v : HalfWord) : (le16 v).length = 2 := by simp [le16, leBytes]
  have lz (n : Nat) : (zeros n).length = n := by simp [zeros]
  have w (m : Memory) (a b : Nat) (xs ys : List Byte) (h : b = a + xs.length) :
      Memory.write (Memory.write m a xs) b ys = Memory.write m a (xs ++ ys) := by rw [h, write_write]
  unfold stoppedHeaderBody
  rw [memWrite_ok (by rw [l2]; decide)]
  simp only [bind, Except.bind]
  rw [memWrite_ok (by rw [l2]; decide)]
  dsimp only
  rw [memWrite_ok (by rw [lz]; decide)]
  rw [w _ 0 2 _ _ (by rw [l2]), w _ 0 4 _ _ (by simp only [List.length_append, l2])]
  simp only [stoppedBytes, List.append_assoc]

/-- UNWRAP's body on a whole block: IBUF holds the block, and OBUF from 32 on its rotation. -/
theorem unwrapBody_ok (tp : HalfWord) {block : List Byte} (s : State) (h : block.length = 20480) :
    unwrapBody tp block s = .ok { s with
      ibuf := Memory.cellsAt 0 block, obuf := Memory.write s.obuf 32 (rotateBlock tp.toNat block) } := by
  unfold unwrapBody
  rw [placeBlock_ok (by rw [h]; decide)]
  simp only [bind, Except.bind]
  rw [memRead_withBlock h]
  dsimp only
  rw [memWrite_ok (by rw [rotateBlock_length, h]; decide)]
  rfl

/-- All that UNWRAP's body can do: the buffers alone differ, and both keep their form. -/
theorem unwrapBody_eq_ok {tp : HalfWord} {block : List Byte} {s t : State} (h : unwrapBody tp block s = .ok t) :
    ∃ n m, t = { s with ibuf := n, obuf := m } ∧ Memory.wf ibufSize n = true ∧
      (Memory.wf obufSize s.obuf = true → Memory.wf obufSize m = true) := by
  unfold unwrapBody at h
  simp only [bind, Except.bind] at h
  split at h
  · cases h
  · rename_i u hp
    obtain ⟨hb, rfl⟩ := placeBlock_eq_ok hp
    split at h
    · cases h
    · rename_i raw hr
      obtain ⟨hl, rfl⟩ := memWrite_eq_ok h
      exact ⟨_, _, rfl, wf_cellsAt hb, fun hw => wf_write hw hl⟩

end Sys2Proof.Machine
end

