-- ==== Sys2Proof/Laws/Operands.lean ====
section
/-! SUPPORT. The enumeration codes are inverse to their readers, and what a checked field can be. -/

namespace Sys2Proof

theorem Range.ofCode_code (x : Range) : Range.ofCode? x.code = some x := by cases x <;> decide
theorem Coupling.ofCode_code (x : Coupling) : Coupling.ofCode? x.code = some x := by cases x <;> decide
theorem TrigSource.ofCode_code (x : TrigSource) : TrigSource.ofCode? x.code = some x := by cases x <;> decide
theorem Slope.ofCode_code (x : Slope) : Slope.ofCode? x.code = some x := by cases x <;> decide
theorem ChanSel.ofCode_code (x : ChanSel) : ChanSel.ofCode? x.code = some x := by cases x <;> decide
theorem DataLength.ofCode_code (x : DataLength) : DataLength.ofCode? x.code = some x := by cases x <;> decide
theorem Channel.ofCode_code (x : Channel) : Channel.ofCode? x.code = some x := by cases x <;> decide

theorem Range.code_of_ofCode {b : Byte} {x : Range} (h : Range.ofCode? b = some x) : x.code = b := by
  simpa using List.find?_some h

theorem Coupling.code_of_ofCode {b : Byte} {x : Coupling} (h : Coupling.ofCode? b = some x) : x.code = b := by
  simpa using List.find?_some h

theorem TrigSource.code_of_ofCode {b : Byte} {x : TrigSource} (h : TrigSource.ofCode? b = some x) : x.code = b := by
  simpa using List.find?_some h

theorem Slope.code_of_ofCode {b : Byte} {x : Slope} (h : Slope.ofCode? b = some x) : x.code = b := by
  simpa using List.find?_some h

theorem ChanSel.code_of_ofCode {b : Byte} {x : ChanSel} (h : ChanSel.ofCode? b = some x) : x.code = b := by
  simpa using List.find?_some h

theorem DataLength.code_of_ofCode {b : Byte} {x : DataLength} (h : DataLength.ofCode? b = some x) : x.code = b := by
  simpa using List.find?_some h

theorem Channel.code_of_ofCode {b : Byte} {x : Channel} (h : Channel.ofCode? b = some x) : x.code = b := by
  simpa using List.find?_some h

/-- A byte is a range code exactly when it is at most 8. -/
theorem Range.ofCode_isSome (b : Byte) : (Range.ofCode? b).isSome = decide (b.toNat ≤ 8) := by
  revert b; decide

theorem Coupling.ofCode_isSome (b : Byte) : (Coupling.ofCode? b).isSome = decide (b.toNat ≤ 2) := by
  revert b; decide

theorem TrigSource.ofCode_isSome (b : Byte) : (TrigSource.ofCode? b).isSome = decide (b.toNat ≤ 3) := by
  revert b; decide

theorem Slope.ofCode_isSome (b : Byte) : (Slope.ofCode? b).isSome = decide (b.toNat ≤ 1) := by
  revert b; decide

theorem ChanSel.ofCode_isSome (b : Byte) : (ChanSel.ofCode? b).isSome = decide (b.toNat ≤ 2) := by
  revert b; decide

theorem DataLength.ofCode_isSome (b : Byte) :
    (DataLength.ofCode? b).isSome = decide (b.toNat = 1 ∨ b.toNat = 2) := by
  revert b; decide

theorem Channel.ofCode_isSome (b : Byte) : (Channel.ofCode? b).isSome = decide (b.toNat ≤ 1) := by
  revert b; decide

end Sys2Proof

namespace Sys2Proof.Machine

theorem field_some {α : Type} (off : Nat) (a : α) : field off (some a) = .ok a := rfl
theorem field_none {α : Type} (off : Nat) : field off (none : Option α) = .error (badOperand off) := rfl

/-- All that a checked field can be. -/
theorem field_eq_ok {α : Type} {off : Nat} {o : Option α} {a : α} (h : field off o = .ok a) : o = some a := by
  cases o with
  | none => cases h
  | some b => exact congrArg some (Except.ok.inj h)

theorem require_true (r : FaultReason) : require true r = .ok () := rfl
theorem require_false (r : FaultReason) : require false r = .error r := rfl

theorem requireCal_loaded {s : State} (h : s.calValid = true) : requireCal s = .ok () := by rw [requireCal, h, require_true]

theorem requireCal_missing {s : State} (h : s.calValid = false) : requireCal s = .error ⟨.calNotLoaded, 0⟩ := by
  rw [requireCal, h, require_false]

theorem requireSampleT_set {s : State} (h : s.sampleTValid = true) : requireSampleT s = .ok () := by
  rw [requireSampleT, h, require_true]

theorem requireSampleT_unset {s : State} (h : s.sampleTValid = false) :
    requireSampleT s = .error ⟨.sampleTUnset, 0⟩ := by
  rw [requireSampleT, h, require_false]

end Sys2Proof.Machine
end

