-- ==== Sys2Proof/Laws/Checks.lean ====
section
/-! SUPPORT. The operand checks against the table of fields: each operand record is read exactly as
`operandFields` says, so a claim about BAD_OPERAND needs no unfolding of a record. -/

namespace Sys2Proof.Machine

theorem mkRat_qVal (q : QOperand) : mkRat q.num.toInt q.den.toNat = qVal q := by
  rw [qVal, Rat.mkRat_eq_div]

theorem qValue_isSome (q : QOperand) : (qValue? q).isSome = decide (q.den.toNat ≠ 0) := by
  unfold qValue?
  by_cases h : q.den = 0
  · simp [h]
  · have : q.den.toNat ≠ 0 := fun h' => h (BitVec.eq_of_toNat_eq (by simpa using h'))
    rw [if_neg h]; simp only [Option.isSome_some, this, ne_eq, not_false_eq_true, decide_true]

theorem qVal_pos (q : QOperand) (h : q.den.toNat ≠ 0) : 0 < qVal q ↔ 0 < q.num.toInt := by
  have : (0 : Rat) < q.den.toNat := by exact_mod_cast Nat.pos_of_ne_zero h
  rw [qVal, div_pos_iff_of_pos_right this]; exact_mod_cast Iff.rfl

theorem qPositive_isSome (q : QOperand) : (qPositive? q).isSome = decide (q.den.toNat ≠ 0 ∧ 0 < q.num.toInt) := by
  unfold qPositive? qValue?
  by_cases h : q.den = 0
  · simp [h]
  · have h' : q.den.toNat ≠ 0 := fun h' => h (BitVec.eq_of_toNat_eq (by simpa using h'))
    have := qVal_pos q h'
    simp only [h, if_false, Option.bind_some, mkRat_qVal]
    by_cases hp : 0 < q.num.toInt
    · rw [dif_pos (this.2 hp)]; simp [h', hp]
    · rw [dif_neg (fun h => hp (this.1 h))]; simp [hp]

theorem rawPointer_isSome (p : Word) : (rawPointer? p).isSome = decide (p.toNat < 2 ^ 18) := by
  unfold rawPointer?
  have : p >>> 18 = 0 ↔ p.toNat < 2 ^ 18 := by
    rw [← BitVec.toNat_inj]; simp [Nat.shiftRight_eq_div_pow]
  by_cases h : p >>> 18 = 0
  · rw [if_pos h]; simp only [Option.isSome_some, this.1 h, decide_true]
  · simp only [if_neg h, Option.isSome_none]; symm; rw [decide_eq_false_iff_not]; exact fun h' => h (this.2 h')

/-- The verdict of the fields of a record. -/
def checkOf (fs : List (Nat × Bool)) : Except FaultReason Unit :=
  match firstBad fs with
  | none => .ok ()
  | some off => .error (badOperand off)

/-- A check without its value. -/
def verdict {α : Type} : Except FaultReason α → Except FaultReason Unit
  | .ok _ => .ok ()
  | .error r => .error r

theorem checkOf_cons (off : Nat) (g : Bool) (fs : List (Nat × Bool)) :
    checkOf ((off, g) :: fs) = if g then checkOf fs else .error (badOperand off) := by
  cases g <;> rfl

theorem checkOf_nil : checkOf [] = .ok () := rfl

/-- One field of a record, and the fields after it. -/
theorem field_step {α β : Type} (off : Nat) (o : Option α) (f : α → Except FaultReason β) (g : Bool)
    (fs : List (Nat × Bool)) (h : o.isSome = g) (ih : ∀ a, o = some a → verdict (f a) = checkOf fs) :
    verdict (field off o >>= f) = checkOf ((off, g) :: fs) := by
  rw [checkOf_cons]
  cases o with
  | none =>
    subst h
    rfl
  | some a =>
    subst h
    exact ih a rfl

/-- The last field of a record. -/
theorem field_last {α : Type} (off : Nat) (o : Option α) (g : Bool) (h : o.isSome = g) :
    verdict (field off o) = checkOf [(off, g)] := by
  rw [checkOf_cons]
  cases o with
  | none =>
    subst h
    rfl
  | some a =>
    subst h
    rfl

theorem lookup_check (c r) : verdict (lookupOperands c r) = checkOf (operandFields (.calLookup c r)) := by
  refine field_step _ _ _ _ _ (Channel.ofCode_isSome _) fun _ _ => ?_
  refine field_step _ _ _ _ _ (Range.ofCode_isSome _) fun _ _ => ?_
  rfl

theorem voltage_check (a b c d) : verdict (voltageOperands a b c d) = checkOf (operandFields (.encVoltage a b c d)) := by
  refine field_step _ _ _ _ _ (Range.ofCode_isSome _) fun _ _ => ?_
  refine field_step _ _ _ _ _ (Coupling.ofCode_isSome _) fun _ _ => ?_
  refine field_step _ _ _ _ _ (Range.ofCode_isSome _) fun _ _ => ?_
  refine field_step _ _ _ _ _ (Coupling.ofCode_isSome _) fun _ _ => ?_
  rfl

theorem relay_check (a b c d e) : verdict (relayOperands a b c d e) = checkOf (operandFields (.encRelays a b c d e)) := by
  refine field_step _ _ _ _ _ (Range.ofCode_isSome _) fun _ _ => ?_
  refine field_step _ _ _ _ _ (Coupling.ofCode_isSome _) fun _ _ => ?_
  refine field_step _ _ _ _ _ (Range.ofCode_isSome _) fun _ _ => ?_
  refine field_step _ _ _ _ _ (Coupling.ofCode_isSome _) fun _ _ => ?_
  refine field_step _ _ _ _ _ (TrigSource.ofCode_isSome _) fun _ _ => ?_
  rfl

theorem trigin_check (a b) : verdict (triginOperands a b) = checkOf (operandFields (.encTrigin a b)) := by
  refine field_step _ _ _ _ _ (TrigSource.ofCode_isSome _) fun _ _ => ?_
  refine field_step _ _ _ _ _ (Slope.ofCode_isSome _) fun _ _ => ?_
  rfl

theorem channels_check (a) : verdict (channelsOperand a) = checkOf (operandFields (.encChannels a)) :=
  field_last _ _ _ (ChanSel.ofCode_isSome _)

theorem ramlen_check (a) : verdict (ramlenOperand a) = checkOf (operandFields (.encRamlen a)) :=
  field_last _ _ _ (DataLength.ofCode_isSome _)

theorem rate_check (a) : verdict (rateOperand a) = checkOf (operandFields (.quantSamplerate a)) :=
  field_last _ _ _ (qValue_isSome _)

theorem triglen_check (a b) : verdict (triglenOperands a b) = checkOf (operandFields (.encTriglen a b)) := by
  refine field_step _ _ _ _ _ (DataLength.ofCode_isSome _) fun _ _ => ?_
  refine field_step _ _ _ _ _ (qValue_isSome _) fun _ _ => ?_
  rfl

theorem offset_check (a b c d e f) : verdict (offsetOperands a b c d e f) = checkOf (operandFields (.encOffsets a b c d e f)) := by
  refine field_step _ _ _ _ _ (Range.ofCode_isSome _) fun _ _ => ?_
  refine field_step _ _ _ _ _ (qValue_isSome _) fun _ _ => ?_
  refine field_step _ _ _ _ _ (Range.ofCode_isSome _) fun _ _ => ?_
  refine field_step _ _ _ _ _ (qValue_isSome _) fun _ _ => ?_
  refine field_step _ _ _ _ _ (TrigSource.ofCode_isSome _) fun _ _ => ?_
  refine field_step _ _ _ _ _ (qValue_isSome _) fun _ _ => ?_
  rfl

theorem config_check (c) : verdict (configOperand c) = checkOf (operandFields (.apply c)) := by
  refine field_step _ _ _ _ _ (Range.ofCode_isSome _) fun _ _ => ?_
  refine field_step _ _ _ _ _ (Coupling.ofCode_isSome _) fun _ _ => ?_
  refine field_step _ _ _ _ _ (qValue_isSome _) fun _ _ => ?_
  refine field_step _ _ _ _ _ (Range.ofCode_isSome _) fun _ _ => ?_
  refine field_step _ _ _ _ _ (Coupling.ofCode_isSome _) fun _ _ => ?_
  refine field_step _ _ _ _ _ (qValue_isSome _) fun _ _ => ?_
  refine field_step _ _ _ _ _ (TrigSource.ofCode_isSome _) fun _ _ => ?_
  refine field_step _ _ _ _ _ (Slope.ofCode_isSome _) fun _ _ => ?_
  refine field_step _ _ _ _ _ (qValue_isSome _) fun _ _ => ?_
  refine field_step _ _ _ _ _ (ChanSel.ofCode_isSome _) fun _ _ => ?_
  refine field_step _ _ _ _ _ (DataLength.ofCode_isSome _) fun _ _ => ?_
  refine field_step _ _ _ _ _ (qPositive_isSome _) fun _ _ => ?_
  refine field_step _ _ _ _ _ (qValue_isSome _) fun _ _ => ?_
  rfl

theorem pointer_check (p) : verdict (pointerOperand p) = checkOf (operandFields (.decodeTp p)) :=
  field_last _ _ _ (rawPointer_isSome _)

/-- A bad field is reported with its offset. -/
theorem bad_of_check {α : Type} {e : Except FaultReason α} {fs : List (Nat × Bool)} {off : Nat}
    (h : verdict e = checkOf fs) (hb : firstBad fs = some off) : e = .error (badOperand off) := by
  rw [checkOf, hb] at h
  cases e with
  | ok a => cases h
  | error r => rw [Except.error.inj h]

/-- Without a bad field the record is read. -/
theorem good_of_check {α : Type} {e : Except FaultReason α} {fs : List (Nat × Bool)}
    (h : verdict e = checkOf fs) (hb : firstBad fs = none) : ∃ a, e = .ok a := by
  rw [checkOf, hb] at h
  cases e with
  | ok a => exact ⟨a, rfl⟩
  | error r => cases h

/-- All that a record's check can raise. -/
theorem error_of_check {α : Type} {e : Except FaultReason α} {fs : List (Nat × Bool)} {r : FaultReason}
    (h : verdict e = checkOf fs) (he : e = .error r) : ∃ off, firstBad fs = some off ∧ r = badOperand off := by
  cases hb : firstBad fs with
  | none =>
    obtain ⟨a, ha⟩ := good_of_check h hb
    rw [ha] at he
    cases he
  | some off =>
    rw [bad_of_check h hb] at he
    exact ⟨off, rfl, (Except.error.inj he).symm⟩

/-! ## The values of a record that is read -/

theorem bind_eq_ok {α β : Type} {e : Except FaultReason α} {f : α → Except FaultReason β} {b : β}
    (h : (e >>= f) = .ok b) : ∃ a, e = .ok a ∧ f a = .ok b := by
  cases e with
  | ok a => exact ⟨a, rfl, h⟩
  | error r => cases h

theorem qValue_eq_some {q : QOperand} {v : Rat} (h : qValue? q = some v) : q.den ≠ 0 ∧ v = qVal q := by
  unfold qValue? at h
  split at h
  · cases h
  · exact ⟨‹_›, by rw [← mkRat_qVal, Option.some.inj h]⟩

theorem qPositive_eq_some {q : QOperand} {v : PosRat} (h : qPositive? q = some v) : q.den ≠ 0 ∧ v.val = qVal q := by
  obtain ⟨w, hw, h⟩ := Option.bind_eq_some_iff.1 h
  split at h
  · obtain rfl := Option.some.inj h
    exact qValue_eq_some hw
  · cases h

theorem lookupOperands_ok {a b : Byte} {v : Channel × Range} (h : lookupOperands a b = .ok v) :
    v.1.code = a ∧ v.2.code = b := by
  obtain ⟨_, h1, h⟩ := bind_eq_ok h
  obtain ⟨_, h2, h⟩ := bind_eq_ok h
  obtain rfl := Except.ok.inj h
  exact ⟨Channel.code_of_ofCode (field_eq_ok h1), Range.code_of_ofCode (field_eq_ok h2)⟩

theorem voltageOperands_ok {a b c d : Byte} {v : Range × Coupling × Range × Coupling}
    (h : voltageOperands a b c d = .ok v) :
    v.1.code = a ∧ v.2.1.code = b ∧ v.2.2.1.code = c ∧ v.2.2.2.code = d := by
  obtain ⟨_, h1, h⟩ := bind_eq_ok h
  obtain ⟨_, h2, h⟩ := bind_eq_ok h
  obtain ⟨_, h3, h⟩ := bind_eq_ok h
  obtain ⟨_, h4, h⟩ := bind_eq_ok h
  obtain rfl := Except.ok.inj h
  exact ⟨Range.code_of_ofCode (field_eq_ok h1), Coupling.code_of_ofCode (field_eq_ok h2),
    Range.code_of_ofCode (field_eq_ok h3), Coupling.code_of_ofCode (field_eq_ok h4)⟩

theorem relayOperands_ok {a b c d e : Byte} {v : Range × Coupling × Range × Coupling × TrigSource}
    (h : relayOperands a b c d e = .ok v) :
    v.1.code = a ∧ v.2.1.code = b ∧ v.2.2.1.code = c ∧ v.2.2.2.1.code = d ∧ v.2.2.2.2.code = e := by
  obtain ⟨_, h1, h⟩ := bind_eq_ok h
  obtain ⟨_, h2, h⟩ := bind_eq_ok h
  obtain ⟨_, h3, h⟩ := bind_eq_ok h
  obtain ⟨_, h4, h⟩ := bind_eq_ok h
  obtain ⟨_, h5, h⟩ := bind_eq_ok h
  obtain rfl := Except.ok.inj h
  exact ⟨Range.code_of_ofCode (field_eq_ok h1), Coupling.code_of_ofCode (field_eq_ok h2),
    Range.code_of_ofCode (field_eq_ok h3), Coupling.code_of_ofCode (field_eq_ok h4),
    TrigSource.code_of_ofCode (field_eq_ok h5)⟩

theorem triginOperands_ok {a b : Byte} {v : TrigSource × Slope} (h : triginOperands a b = .ok v) :
    v.1.code = a ∧ v.2.code = b := by
  obtain ⟨_, h1, h⟩ := bind_eq_ok h
  obtain ⟨_, h2, h⟩ := bind_eq_ok h
  obtain rfl := Except.ok.inj h
  exact ⟨TrigSource.code_of_ofCode (field_eq_ok h1), Slope.code_of_ofCode (field_eq_ok h2)⟩

theorem channelsOperand_ok {a : Byte} {v : ChanSel} (h : channelsOperand a = .ok v) : v.code = a :=
  ChanSel.code_of_ofCode (field_eq_ok h)

theorem ramlenOperand_ok {a : Byte} {v : DataLength} (h : ramlenOperand a = .ok v) : v.code = a :=
  DataLength.code_of_ofCode (field_eq_ok h)

theorem rateOperand_ok {q : QOperand} {v : Rat} (h : rateOperand q = .ok v) : q.den ≠ 0 ∧ v = qVal q :=
  qValue_eq_some (field_eq_ok h)

theorem triglenOperands_ok {a : Byte} {q : QOperand} {v : DataLength × Rat} (h : triglenOperands a q = .ok v) :
    v.1.code = a ∧ q.den ≠ 0 ∧ v.2 = qVal q := by
  obtain ⟨_, h1, h⟩ := bind_eq_ok h
  obtain ⟨_, h2, h⟩ := bind_eq_ok h
  obtain rfl := Except.ok.inj h
  exact ⟨DataLength.code_of_ofCode (field_eq_ok h1), qValue_eq_some (field_eq_ok h2)⟩

theorem offsetOperands_ok {a c e : Byte} {b d f : QOperand} {v : OffsetOperands}
    (h : offsetOperands a b c d e f = .ok v) :
    v.r0.code = a ∧ v.off0 = qVal b ∧ v.r1.code = c ∧ v.off1 = qVal d ∧ v.src.code = e ∧ v.toff = qVal f := by
  obtain ⟨_, h1, h⟩ := bind_eq_ok h
  obtain ⟨_, h2, h⟩ := bind_eq_ok h
  obtain ⟨_, h3, h⟩ := bind_eq_ok h
  obtain ⟨_, h4, h⟩ := bind_eq_ok h
  obtain ⟨_, h5, h⟩ := bind_eq_ok h
  obtain ⟨_, h6, h⟩ := bind_eq_ok h
  obtain rfl := Except.ok.inj h
  exact ⟨Range.code_of_ofCode (field_eq_ok h1), (qValue_eq_some (field_eq_ok h2)).2,
    Range.code_of_ofCode (field_eq_ok h3), (qValue_eq_some (field_eq_ok h4)).2,
    TrigSource.code_of_ofCode (field_eq_ok h5), (qValue_eq_some (field_eq_ok h6)).2⟩

theorem configOperand_ok {c : CfgOperand} {v : InstrumentConfig} (h : configOperand c = .ok v) :
    denotes c v := by
  obtain ⟨_, h1, h⟩ := bind_eq_ok h
  obtain ⟨_, h2, h⟩ := bind_eq_ok h
  obtain ⟨_, h3, h⟩ := bind_eq_ok h
  obtain ⟨_, h4, h⟩ := bind_eq_ok h
  obtain ⟨_, h5, h⟩ := bind_eq_ok h
  obtain ⟨_, h6, h⟩ := bind_eq_ok h
  obtain ⟨_, h7, h⟩ := bind_eq_ok h
  obtain ⟨_, h8, h⟩ := bind_eq_ok h
  obtain ⟨_, h9, h⟩ := bind_eq_ok h
  obtain ⟨_, h10, h⟩ := bind_eq_ok h
  obtain ⟨_, h11, h⟩ := bind_eq_ok h
  obtain ⟨_, h12, h⟩ := bind_eq_ok h
  obtain ⟨_, h13, h⟩ := bind_eq_ok h
  obtain rfl := Except.ok.inj h
  exact ⟨Range.code_of_ofCode (field_eq_ok h1), Coupling.code_of_ofCode (field_eq_ok h2),
    (qValue_eq_some (field_eq_ok h3)).2, Range.code_of_ofCode (field_eq_ok h4),
    Coupling.code_of_ofCode (field_eq_ok h5), (qValue_eq_some (field_eq_ok h6)).2,
    TrigSource.code_of_ofCode (field_eq_ok h7), Slope.code_of_ofCode (field_eq_ok h8),
    (qValue_eq_some (field_eq_ok h9)).2, ChanSel.code_of_ofCode (field_eq_ok h10),
    DataLength.code_of_ofCode (field_eq_ok h11), (qPositive_eq_some (field_eq_ok h12)).2, (qValue_eq_some (field_eq_ok h13)).2⟩

theorem pointerOperand_ok {p v : Word} (h : pointerOperand p = .ok v) : v = p := by
  have h := field_eq_ok h
  unfold rawPointer? at h
  split at h
  · exact (Option.some.inj h).symm
  · cases h

end Sys2Proof.Machine
end

