-- ==== Sys2Proof/Laws/Decode.lean ====
section
/-! SUPPORT. Each field reader gives back what its writer wrote, and only that. -/

namespace Sys2Proof

theorem leBytes_length (n v : Nat) : (leBytes n v).length = n := by
  induction n generalizing v with
  | zero => rfl
  | succ n ih => simp [leBytes, ih]

theorem leNat_leBytes (n v : Nat) : leNat (leBytes n v) = v % 256 ^ n := by
  induction n generalizing v with
  | zero => simp [leBytes, leNat, Nat.mod_one]
  | succ n ih =>
    have h : BitVec.toNat (BitVec.ofNat 8 v) = v % 256 := rfl
    rw [leBytes, leNat, ih, h, Nat.pow_succ, Nat.mul_comm (256 ^ n) 256, Nat.mod_mul]

theorem leNat_lt (bs : List Byte) : leNat bs < 256 ^ bs.length := by
  induction bs with
  | nil => simp [leNat]
  | cons b bs ih =>
    have hb := b.isLt
    simp only [leNat, List.length_cons, Nat.pow_succ]
    omega

theorem leBytes_leNat (bs : List Byte) : leBytes bs.length (leNat bs) = bs := by
  induction bs with
  | nil => rfl
  | cons b bs ih =>
    have hb := b.isLt
    have h1 : (b.toNat + 256 * leNat bs) / 256 = leNat bs := by omega
    have h2 : BitVec.ofNat 8 (b.toNat + 256 * leNat bs) = b := by
      apply BitVec.eq_of_toNat_eq
      simp only [BitVec.toNat_ofNat]
      omega
    simp only [List.length_cons, leBytes, leNat, h1, h2, ih]

theorem takeLE_append (n v : Nat) (bs : List Byte) :
    takeLE n (leBytes n v ++ bs) = some (v % 256 ^ n, bs) := by
  have h := leBytes_length n v
  rw [takeLE, if_pos (by simp [h])]
  rw [List.take_left' h, List.drop_left' h, leNat_leBytes]

theorem takeLE_append_lt {n v : Nat} (hv : v < 256 ^ n) (bs : List Byte) :
    takeLE n (leBytes n v ++ bs) = some (v, bs) := by
  rw [takeLE_append, Nat.mod_eq_of_lt hv]

/-- All that a little-endian field reader can do. -/
theorem takeLE_eq_some {n v : Nat} {bs rest : List Byte} (h : takeLE n bs = some (v, rest)) :
    bs = leBytes n v ++ rest ∧ v < 256 ^ n := by
  unfold takeLE at h
  split at h
  · rename_i hn
    obtain ⟨rfl, rfl⟩ := Prod.mk.inj (Option.some.inj h)
    have hl : (bs.take n).length = n := by simp [hn]
    have h1 := leBytes_leNat (bs.take n)
    have h2 := leNat_lt (bs.take n)
    rw [hl] at h1 h2
    rw [h1, List.take_append_drop]
    exact ⟨rfl, h2⟩
  · cases h

theorem takeU8_cons (b : Byte) (bs : List Byte) : takeU8 (b :: bs) = some (b, bs) := rfl

theorem takeU8_eq_some {bs rest : List Byte} {b : Byte} (h : takeU8 bs = some (b, rest)) : bs = b :: rest := by
  cases bs with
  | nil => cases h
  | cons c bs => obtain ⟨rfl, rfl⟩ := Prod.mk.inj (Option.some.inj h); rfl

theorem takeU16_append (v : HalfWord) (bs : List Byte) : takeU16 (leBytes 2 v.toNat ++ bs) = some (v, bs) := by
  have h : v.toNat < 256 ^ 2 := v.isLt
  simp only [takeU16, takeLE_append_lt h, Option.bind_eq_bind, Option.bind_some, BitVec.ofNat_toNat, BitVec.setWidth_eq]

theorem takeU16_eq_some {bs rest : List Byte} {v : HalfWord} (h : takeU16 bs = some (v, rest)) :
    bs = leBytes 2 v.toNat ++ rest := by
  simp only [takeU16, Option.bind_eq_bind, Option.bind_eq_some_iff] at h
  obtain ⟨⟨n, r⟩, h1, h2⟩ := h
  obtain ⟨rfl, rfl⟩ := Prod.mk.inj (Option.some.inj h2)
  have h3 := takeLE_eq_some h1
  have h4 : n % 2 ^ 16 = n := Nat.mod_eq_of_lt h3.2
  simp only [BitVec.toNat_ofNat, h4]
  exact h3.1

theorem takeU32_append (v : Word) (bs : List Byte) : takeU32 (leBytes 4 v.toNat ++ bs) = some (v, bs) := by
  have h : v.toNat < 256 ^ 4 := v.isLt
  simp only [takeU32, takeLE_append_lt h, Option.bind_eq_bind, Option.bind_some, BitVec.ofNat_toNat, BitVec.setWidth_eq]

theorem takeU32_eq_some {bs rest : List Byte} {v : Word} (h : takeU32 bs = some (v, rest)) :
    bs = leBytes 4 v.toNat ++ rest := by
  simp only [takeU32, Option.bind_eq_bind, Option.bind_eq_some_iff] at h
  obtain ⟨⟨n, r⟩, h1, h2⟩ := h
  obtain ⟨rfl, rfl⟩ := Prod.mk.inj (Option.some.inj h2)
  have h3 := takeLE_eq_some h1
  have h4 : n % 2 ^ 32 = n := Nat.mod_eq_of_lt h3.2
  simp only [BitVec.toNat_ofNat, h4]
  exact h3.1

theorem takeQ_append (q : QOperand) (bs : List Byte) : takeQ (encodeQ q ++ bs) = some (q, bs) := by
  have h1 : q.num.toNat < 256 ^ 8 := q.num.isLt
  have h2 : q.den.toNat < 256 ^ 8 := q.den.isLt
  simp only [takeQ, encodeQ, List.append_assoc, takeLE_append_lt h1, takeLE_append_lt h2, Option.bind_eq_bind,
    Option.bind_some, BitVec.ofNat_toNat, BitVec.setWidth_eq]

theorem takeQ_eq_some {bs rest : List Byte} {q : QOperand} (h : takeQ bs = some (q, rest)) :
    bs = encodeQ q ++ rest := by
  simp only [takeQ, Option.bind_eq_bind, Option.bind_eq_some_iff] at h
  obtain ⟨⟨n, r⟩, h1, ⟨d, r'⟩, h2, h3⟩ := h
  obtain ⟨rfl, rfl⟩ := Prod.mk.inj (Option.some.inj h3)
  have h4 := takeLE_eq_some h1
  have h5 := takeLE_eq_some h2
  have h6 : n % 2 ^ 64 = n := Nat.mod_eq_of_lt h4.2
  have h7 : d % 2 ^ 64 = d := Nat.mod_eq_of_lt h5.2
  simp only [encodeQ, BitVec.toNat_ofNat, List.append_assoc, h6, h7]
  rw [← h5.1]
  exact h4.1

theorem takePair_append (p : CalPair) (bs : List Byte) : takePair (encodePair p ++ bs) = some (p, bs) := by
  simp [takePair, encodePair, List.append_assoc, takeU16_append]

theorem takePair_eq_some {bs rest : List Byte} {p : CalPair} (h : takePair bs = some (p, rest)) :
    bs = encodePair p ++ rest := by
  simp only [takePair, Option.bind_eq_bind, Option.bind_eq_some_iff] at h
  obtain ⟨⟨n, r⟩, h1, ⟨d, r'⟩, h2, h3⟩ := h
  obtain ⟨rfl, rfl⟩ := Prod.mk.inj (Option.some.inj h3)
  simp only [encodePair, List.append_assoc]
  rw [← takeU16_eq_some h2]
  exact takeU16_eq_some h1

theorem takeRow_append (r : CalRow) (bs : List Byte) : takeRow (encodeRow r ++ bs) = some (r, bs) := by
  simp [takeRow, encodeRow, List.append_assoc, takePair_append]

theorem takeBlock_append {len : Word} {block : List Byte} (h : block.length = len.toNat) (bs : List Byte) :
    takeBlock len (block ++ bs) = some (block, bs) := by
  rw [takeBlock, if_pos (by simp [h]), ← h, List.take_left, List.drop_left]

theorem takeBlock_eq_some {len : Word} {bs block rest : List Byte} (h : takeBlock len bs = some (block, rest)) :
    bs = block ++ rest ∧ block.length = len.toNat := by
  unfold takeBlock at h
  split at h
  · rename_i hn
    obtain ⟨rfl, rfl⟩ := Prod.mk.inj (Option.some.inj h)
    exact ⟨(List.take_append_drop _ _).symm, by simp [hn]⟩
  · cases h

theorem wholeRecord_nil (op : Byte) (i : Instr) : wholeRecord op (some (i, [])) = .ok i := rfl

/-- All that a whole record can be. -/
theorem wholeRecord_eq_ok {op : Byte} {o : Option (Instr × List Byte)} {i : Instr} (h : wholeRecord op o = .ok i) :
    o = some (i, []) := by
  unfold wholeRecord at h
  split at h
  · exact congrArg (fun x => some (x, [])) (Except.ok.inj h)
  · cases h

theorem encodeQ_length (q : QOperand) : (encodeQ q).length = 16 := by simp [encodeQ, leBytes_length]

theorem encodeRow_length (r : CalRow) : (encodeRow r).length = 36 := by
  simp [encodeRow, encodePair, leBytes_length]

theorem encodeCfg_length (c : CfgOperand) : (encodeCfg c).length = 88 := by
  simp [encodeCfg, encodeQ_length]

/-! ## Whole records -/

theorem bind_takeU8 {α : Type} (b : Byte) (bs : List Byte) (f : Byte × List Byte → Option α) :
    (takeU8 (b :: bs) >>= f) = f (b, bs) := rfl

theorem bind_takeQ {α : Type} (q : QOperand) (bs : List Byte) (f : QOperand × List Byte → Option α) :
    (takeQ (encodeQ q ++ bs) >>= f) = f (q, bs) := by rw [takeQ_append]; rfl

theorem takeCal_encode (lv : CalFile) : takeCal (encodeRow lv.ch1 ++ encodeRow lv.ch2) = some (lv, []) := by
  have h := takeRow_append lv.ch2 []
  rw [List.append_nil] at h
  simp only [takeCal, takeRow_append, Option.bind_eq_bind, Option.bind_some, h]

theorem takeCfg_encode (c : CfgOperand) : takeCfg (encodeCfg c) = some (c, []) := by
  have h := takeQ_append c.ta []
  rw [List.append_nil] at h
  unfold takeCfg encodeCfg
  rw [bind_takeU8]
  dsimp only
  rw [bind_takeU8]
  dsimp only
  rw [bind_takeQ]
  dsimp only
  rw [bind_takeU8]
  dsimp only
  rw [bind_takeU8]
  dsimp only
  rw [bind_takeQ]
  dsimp only
  rw [bind_takeU8]
  dsimp only
  rw [bind_takeU8]
  dsimp only
  rw [bind_takeQ]
  dsimp only
  rw [bind_takeU8]
  dsimp only
  rw [bind_takeU8]
  dsimp only
  rw [bind_takeQ]
  dsimp only
  rw [h]
  rfl

theorem takeRow_eq_some {bs rest : List Byte} {r : CalRow} (h : takeRow bs = some (r, rest)) :
    bs = encodeRow r ++ rest := by
  unfold takeRow at h
  obtain ⟨⟨_, _⟩, h1, h⟩ := Option.bind_eq_some_iff.1 h
  dsimp only at h
  obtain ⟨⟨_, _⟩, h2, h⟩ := Option.bind_eq_some_iff.1 h
  dsimp only at h
  obtain ⟨⟨_, _⟩, h3, h⟩ := Option.bind_eq_some_iff.1 h
  dsimp only at h
  obtain ⟨⟨_, _⟩, h4, h⟩ := Option.bind_eq_some_iff.1 h
  dsimp only at h
  obtain ⟨⟨_, _⟩, h5, h⟩ := Option.bind_eq_some_iff.1 h
  dsimp only at h
  obtain ⟨⟨_, _⟩, h6, h⟩ := Option.bind_eq_some_iff.1 h
  dsimp only at h
  obtain ⟨⟨_, _⟩, h7, h⟩ := Option.bind_eq_some_iff.1 h
  dsimp only at h
  obtain ⟨⟨_, _⟩, h8, h⟩ := Option.bind_eq_some_iff.1 h
  dsimp only at h
  obtain ⟨⟨_, _⟩, h9, h⟩ := Option.bind_eq_some_iff.1 h
  dsimp only at h
  obtain ⟨rfl, rfl⟩ := Prod.mk.inj (Option.some.inj h)
  rw [takePair_eq_some h1, takePair_eq_some h2, takePair_eq_some h3, takePair_eq_some h4, takePair_eq_some h5,
    takePair_eq_some h6, takePair_eq_some h7, takePair_eq_some h8, takePair_eq_some h9]
  simp only [encodeRow, List.append_assoc]

theorem takeCal_eq_some {bs rest : List Byte} {lv : CalFile} (h : takeCal bs = some (lv, rest)) :
    bs = encodeRow lv.ch1 ++ encodeRow lv.ch2 ++ rest := by
  unfold takeCal at h
  obtain ⟨⟨_, _⟩, h1, h⟩ := Option.bind_eq_some_iff.1 h
  dsimp only at h
  obtain ⟨⟨_, _⟩, h2, h⟩ := Option.bind_eq_some_iff.1 h
  obtain ⟨rfl, rfl⟩ := Prod.mk.inj (Option.some.inj h)
  rw [takeRow_eq_some h1, takeRow_eq_some h2, List.append_assoc]

theorem takeCfg_eq_some {bs rest : List Byte} {c : CfgOperand} (h : takeCfg bs = some (c, rest)) :
    bs = encodeCfg c ++ rest := by
  unfold takeCfg at h
  obtain ⟨⟨_, _⟩, h1, h⟩ := Option.bind_eq_some_iff.1 h
  dsimp only at h
  obtain ⟨⟨_, _⟩, h2, h⟩ := Option.bind_eq_some_iff.1 h
  dsimp only at h
  obtain ⟨⟨_, _⟩, h3, h⟩ := Option.bind_eq_some_iff.1 h
  dsimp only at h
  obtain ⟨⟨_, _⟩, h4, h⟩ := Option.bind_eq_some_iff.1 h
  dsimp only at h
  obtain ⟨⟨_, _⟩, h5, h⟩ := Option.bind_eq_some_iff.1 h
  dsimp only at h
  obtain ⟨⟨_, _⟩, h6, h⟩ := Option.bind_eq_some_iff.1 h
  dsimp only at h
  obtain ⟨⟨_, _⟩, h7, h⟩ := Option.bind_eq_some_iff.1 h
  dsimp only at h
  obtain ⟨⟨_, _⟩, h8, h⟩ := Option.bind_eq_some_iff.1 h
  dsimp only at h
  obtain ⟨⟨_, _⟩, h9, h⟩ := Option.bind_eq_some_iff.1 h
  dsimp only at h
  obtain ⟨⟨_, _⟩, h10, h⟩ := Option.bind_eq_some_iff.1 h
  dsimp only at h
  obtain ⟨⟨_, _⟩, h11, h⟩ := Option.bind_eq_some_iff.1 h
  dsimp only at h
  obtain ⟨⟨_, _⟩, h12, h⟩ := Option.bind_eq_some_iff.1 h
  dsimp only at h
  obtain ⟨⟨_, _⟩, h13, h⟩ := Option.bind_eq_some_iff.1 h
  dsimp only at h
  obtain ⟨rfl, rfl⟩ := Prod.mk.inj (Option.some.inj h)
  rw [takeU8_eq_some h1, takeU8_eq_some h2, takeQ_eq_some h3, takeU8_eq_some h4, takeU8_eq_some h5, takeQ_eq_some h6, takeU8_eq_some h7, takeU8_eq_some h8, takeQ_eq_some h9, takeU8_eq_some h10, takeU8_eq_some h11, takeQ_eq_some h12, takeQ_eq_some h13]
  simp only [encodeCfg, List.cons_append, List.append_assoc]

end Sys2Proof
end

