-- ==== Sys2Proof/Laws/Engine.lean ====
section
/-! SUPPORT. What the shared operations of emission can do: the wait for one transfer, the run of an
operation's actions, and the one induction over a run that every invariant uses. -/

namespace Sys2Proof.Machine

/-! ## The inputs -/

@[simp] theorem reading_nil : reading [] = .clear [] := rfl
@[simp] theorem reading_quiet (ps : List Pin) : reading (.quiet :: ps) = .clear ps := rfl
@[simp] theorem reading_late (ok : Bool) (ps : List Pin) : reading (.late ok :: ps) = reading ps := rfl
@[simp] theorem reading_done (ok : Bool) (ps : List Pin) : reading (.done ok :: ps) = .clear (.done ok :: ps) := rfl
@[simp] theorem reading_rst (ps : List Pin) : reading (.rst :: ps) = .rst ps := rfl

@[simp] theorem arrival_nil : arrival [] = .nothing := rfl
@[simp] theorem arrival_quiet (ps : List Pin) : arrival (.quiet :: ps) = arrival ps := rfl
@[simp] theorem arrival_late (ok : Bool) (ps : List Pin) : arrival (.late ok :: ps) = arrival ps := rfl
@[simp] theorem arrival_rst (ps : List Pin) : arrival (.rst :: ps) = .rst ps := rfl

/-- All that can come next of a completion: the block goes on, or RST comes before it does. -/
theorem arrival_done (ok : Bool) (ps : List Pin) :
    (∃ rest, reading ps = .clear rest ∧ arrival (.done ok :: ps) = .done ok rest) ∨
      ∃ rest, reading ps = .rst rest ∧ arrival (.done ok :: ps) = .rst rest := by
  unfold arrival
  cases h : reading ps with
  | clear rest => exact .inl ⟨rest, rfl, rfl⟩
  | rst rest => exact .inr ⟨rest, rfl, rfl⟩

theorem arrival_done_clear {ok : Bool} {ps rest : List Pin} (h : reading ps = .clear rest) :
    arrival (.done ok :: ps) = .done ok rest := by simp only [arrival, h]

theorem arrival_done_rst {ok : Bool} {ps rest : List Pin} (h : reading ps = .rst rest) :
    arrival (.done ok :: ps) = .rst rest := by simp only [arrival, h]

/-- A look that finds no RST still does when an answer follows, and leaves it. -/
theorem reading_append_clear {ps rest : List Pin} (ok : Bool) (r : List Pin) (h : reading ps = .clear rest) :
    reading (ps ++ .done ok :: r) = .clear (rest ++ .done ok :: r) := by
  induction ps with
  | nil => cases h; rfl
  | cons p ps ih =>
    cases p with
    | quiet => cases h; rfl
    | done b => cases h; rfl
    | late b => exact ih h
    | rst => cases h

/-- A look that finds RST still does when more events follow. -/
theorem reading_append_rst {ps rest : List Pin} (qs : List Pin) (h : reading ps = .rst rest) :
    reading (ps ++ qs) = .rst (rest ++ qs) := by
  induction ps with
  | nil => cases h
  | cons p ps ih =>
    cases p with
    | quiet => cases h
    | done b => cases h
    | late b => exact ih h
    | rst => cases h; rfl

/-- What arrives first still does when an answer follows. -/
theorem arrival_append_done {ps rest : List Pin} {ok : Bool} (b : Bool) (r : List Pin) (h : arrival ps = .done ok rest) :
    arrival (ps ++ .done b :: r) = .done ok (rest ++ .done b :: r) := by
  induction ps with
  | nil => cases h
  | cons p ps ih =>
    cases p with
    | quiet => exact ih h
    | done c =>
      rcases arrival_done c ps with ⟨q, hq, ha⟩ | ⟨q, hq, ha⟩
      · cases ha.symm.trans h
        exact arrival_done_clear (reading_append_clear b r hq)
      · cases ha.symm.trans h
    | late c => exact ih h
    | rst => cases h

/-- A reset that arrives first still does when more events follow. -/
theorem arrival_append_rst {ps qs rest : List Pin} (h : arrival ps = .rst rest) :
    arrival (ps ++ qs) = .rst (rest ++ qs) := by
  induction ps with
  | nil => cases h
  | cons p ps ih =>
    cases p with
    | quiet => exact ih h
    | done c =>
      rcases arrival_done c ps with ⟨q, hq, ha⟩ | ⟨q, hq, ha⟩
      · cases ha.symm.trans h
      · cases ha.symm.trans h
        exact arrival_done_rst (reading_append_rst qs hq)
    | late c => exact ih h
    | rst => cases h; rfl

/-- Where nothing arrives, the events that follow arrive first. -/
theorem arrival_append_nothing {ps : List Pin} (qs : List Pin) (h : arrival ps = .nothing) :
    arrival (ps ++ qs) = arrival qs := by
  induction ps with
  | nil => rfl
  | cons p ps ih =>
    cases p with
    | quiet => exact ih h
    | done c => rcases arrival_done c ps with ⟨q, _, ha⟩ | ⟨q, _, ha⟩ <;> cases ha.symm.trans h
    | late c => exact ih h
    | rst => cases h

/-- RST that a look finds is among the events. -/
theorem rst_mem_of_reading {ps rest : List Pin} (h : reading ps = .rst rest) : Pin.rst ∈ ps := by
  induction ps with
  | nil => cases h
  | cons p ps ih =>
    cases p with
    | quiet => cases h
    | done c => cases h
    | late c => exact List.mem_cons_of_mem _ (ih h)
    | rst => exact List.mem_cons_self

/-- The events after a look are among the events. -/
theorem mem_of_reading_clear {ps rest : List Pin} (h : reading ps = .clear rest) {p : Pin} (hp : p ∈ rest) : p ∈ ps := by
  induction ps with
  | nil => cases h; exact hp
  | cons q ps ih =>
    cases q with
    | quiet => cases h; exact List.mem_cons_of_mem _ hp
    | done c => cases h; exact hp
    | late c => exact List.mem_cons_of_mem _ (ih h)
    | rst => cases h

/-- A reset that arrives is among the events. -/
theorem rst_mem_of_arrival {ps rest : List Pin} (h : arrival ps = .rst rest) : Pin.rst ∈ ps := by
  induction ps with
  | nil => cases h
  | cons p ps ih =>
    cases p with
    | quiet => exact List.mem_cons_of_mem _ (ih h)
    | done c =>
      rcases arrival_done c ps with ⟨q, hq, ha⟩ | ⟨q, hq, ha⟩
      · cases ha.symm.trans h
      · exact List.mem_cons_of_mem _ (rst_mem_of_reading hq)
    | late c => exact List.mem_cons_of_mem _ (ih h)
    | rst => exact List.mem_cons_self

/-- The events after an arrival are among the events. -/
theorem mem_of_arrival_done {ps rest : List Pin} {ok : Bool} (h : arrival ps = .done ok rest) {p : Pin} (hp : p ∈ rest) :
    p ∈ ps := by
  induction ps with
  | nil => cases h
  | cons q ps ih =>
    cases q with
    | quiet => exact List.mem_cons_of_mem _ (ih h)
    | done c =>
      rcases arrival_done c ps with ⟨r, hr, ha⟩ | ⟨r, hr, ha⟩
      · cases ha.symm.trans h
        exact List.mem_cons_of_mem _ (mem_of_reading_clear hr hp)
      · cases ha.symm.trans h
    | late c => exact List.mem_cons_of_mem _ (ih h)
    | rst => cases h

theorem unlessRst_clear {α : Type} {f g : State → α} {s : State} {ps : List Pin} (h : reading s.pins = .clear ps) :
    unlessRst f g s = g { s with pins := ps } := by simp only [unlessRst, h]

theorem unlessRst_rst {α : Type} {f g : State → α} {s : State} {ps : List Pin} (h : reading s.pins = .rst ps) :
    unlessRst f g s = f (resetRegs { s with pins := ps }) := by simp only [unlessRst, h]

/-! ## The wait for a transfer -/

theorem await_nothing {kind : XferKind} {eff : Effect} {w : List Action} {go : State → State} {s : State}
    (h : arrival s.pins = .nothing) : await kind eff w go s = { s with work := w } := by
  simp only [await, h]

theorem await_done {kind : XferKind} {eff : Effect} {w : List Action} {go : State → State} {s : State} {ps : List Pin}
    (h : arrival s.pins = .done true ps) : await kind eff w go s = go (complete eff ps s) := by
  simp only [await, h]

theorem await_fail {kind : XferKind} {eff : Effect} {w : List Action} {go : State → State} {s : State} {ps : List Pin}
    (h : arrival s.pins = .done false ps) :
    await kind eff w go s = raise ⟨.transport, XferKind.code kind⟩ { s with pins := ps } := by
  simp only [await, h]

theorem await_rst {kind : XferKind} {eff : Effect} {w : List Action} {go : State → State} {s : State} {ps : List Pin}
    (h : arrival s.pins = .rst ps) : await kind eff w go s = resetRegs { s with pins := ps } := by
  simp only [await, h]

/-! ## The run of actions -/

theorem run_nil (s : State) : run [] s = post (.count s.done) s := rfl

theorem run_seq (k : BitVec 4) (w : List Action) (s : State) : run (.seq k :: w) s = run w (writeSeq k s) := rfl

theorem run_xfer (kind : XferKind) (x : Transfer) (eff : Effect) (w : List Action) (s : State) :
    run (.xfer kind x eff :: w) s = await kind eff (.xfer kind x eff :: w) (run w) (offer x s) := rfl

/-- A transfer that the transport completes with success. -/
theorem run_xfer_done {kind : XferKind} {x : Transfer} {eff : Effect} {w : List Action} {s : State} {ps : List Pin}
    (h : arrival s.pins = .done true ps) :
    run (.xfer kind x eff :: w) s = run w (complete eff ps (offer x s)) := by
  rw [run_xfer]
  exact await_done h

/-- A transfer that fails. -/
theorem run_xfer_fail {kind : XferKind} {x : Transfer} {eff : Effect} {w : List Action} {s : State} {ps : List Pin}
    (h : arrival s.pins = .done false ps) :
    run (.xfer kind x eff :: w) s = raise ⟨.transport, XferKind.code kind⟩ { offer x s with pins := ps } := by
  rw [run_xfer]
  exact await_fail h

/-- A transfer that is not answered yet. -/
theorem run_xfer_nothing {kind : XferKind} {x : Transfer} {eff : Effect} {w : List Action} {s : State}
    (h : arrival s.pins = .nothing) :
    run (.xfer kind x eff :: w) s = { offer x s with work := .xfer kind x eff :: w } := by
  rw [run_xfer]
  exact await_nothing h

theorem run_relays_suppressed {mask : RelayMask} {w : List Action} {s : State} (h : relaySuppressed mask s = true) :
    run (.relays mask :: w) s = run w s := by
  rw [run, if_pos h]

theorem run_relays_sent {mask : RelayMask} {w : List Action} {s : State} (h : relaySuppressed mask s = false) :
    run (.relays mask :: w) s =
      await .relays (.relayShadow mask) (.xfer .relays (relaysTransfer params mask) (.relayShadow mask) :: w) (run w)
        (offer (relaysTransfer params mask) s) := by
  rw [run, if_neg (by simp [h])]

/-- A relay transfer that is not suppressed is a transfer with its effect. -/
theorem run_relays_xfer {mask : RelayMask} {w : List Action} {s : State} (h : relaySuppressed mask s = false) :
    run (.relays mask :: w) s = run (.xfer .relays (relaysTransfer params mask) (.relayShadow mask) :: w) s := by
  rw [run_relays_sent h, run_xfer]

/-- The one induction over a run. `I w s` holds before the actions `w` run from `s`; `J kind x eff w s`
holds while the transfer `x` is on offer with `w` after it; `Q` holds of every state a run ends in. -/
theorem run_induction {I : List Action → State → Prop} {J : XferKind → Transfer → Effect → List Action → State → Prop}
    {Q : State → Prop}
    (hend : ∀ s, I [] s → Q (post (.count s.done) s))
    (hseq : ∀ k w s, I (.seq k :: w) s → I w (writeSeq k s))
    (hskip : ∀ mask w s, I (.relays mask :: w) s → relaySuppressed mask s = true → I w s)
    (hxfer : ∀ kind x eff w s, I (.xfer kind x eff :: w) s → J kind x eff w (offer x s))
    (hrelay : ∀ mask w s, I (.relays mask :: w) s → relaySuppressed mask s = false →
      J .relays (relaysTransfer params mask) (.relayShadow mask) w (offer (relaysTransfer params mask) s))
    (hwait : ∀ kind x eff w s, J kind x eff w s → arrival s.pins = .nothing →
      Q { s with work := .xfer kind x eff :: w })
    (hdone : ∀ kind x eff w s ps, J kind x eff w s → arrival s.pins = .done true ps → I w (complete eff ps s))
    (hfail : ∀ kind x eff w s ps, J kind x eff w s → arrival s.pins = .done false ps →
      Q (raise ⟨.transport, XferKind.code kind⟩ { s with pins := ps }))
    (hrst : ∀ kind x eff w s ps, J kind x eff w s → arrival s.pins = .rst ps → Q (resetRegs { s with pins := ps })) :
    (∀ w s, I w s → Q (run w s)) ∧
      (∀ kind x eff w s, J kind x eff w s → Q (await kind eff (.xfer kind x eff :: w) (run w) s)) := by
  have hawait : ∀ w, (∀ s, I w s → Q (run w s)) →
      ∀ kind x eff s, J kind x eff w s → Q (await kind eff (.xfer kind x eff :: w) (run w) s) := by
    intro w ih kind x eff s hj
    cases ha : arrival s.pins with
    | nothing => rw [await_nothing ha]; exact hwait _ _ _ _ _ hj ha
    | done ok ps =>
      cases ok with
      | true => rw [await_done ha]; exact ih _ (hdone _ _ _ _ _ _ hj ha)
      | false => rw [await_fail ha]; exact hfail _ _ _ _ _ _ hj ha
    | rst ps => rw [await_rst ha]; exact hrst _ _ _ _ _ _ hj ha
  have hrun : ∀ w s, I w s → Q (run w s) := by
    intro w
    induction w with
    | nil => intro s h; rw [run_nil]; exact hend s h
    | cons a w ih =>
      intro s h
      cases a with
      | seq k => rw [run_seq]; exact ih _ (hseq _ _ _ h)
      | xfer kind x eff => rw [run_xfer]; exact hawait w ih _ _ _ _ (hxfer _ _ _ _ _ h)
      | relays mask =>
        cases hs : relaySuppressed mask s with
        | true => rw [run_relays_suppressed hs]; exact ih _ (hskip _ _ _ h hs)
        | false => rw [run_relays_sent hs]; exact hawait w ih _ _ _ _ (hrelay _ _ _ h hs)
  exact ⟨hrun, fun kind x eff w s hj => hawait w (hrun w) kind x eff s hj⟩

/-! ## Operations -/

/-- Without RST at its start an operation runs its checks, and then its body. -/
theorem perform_clear {α : Type} {op : Byte} {checks : State → Except FaultReason α}
    {body : α → State → Host.Outcome State Fault Refusal} {s : State} {ps : List Pin} (hr : reading s.pins = .clear ps) :
    perform op checks body s = match checks (startOp op { s with pins := ps }) with
      | .error r => .next (raise r (startOp op { s with pins := ps }))
      | .ok a => body a (startOp op { s with pins := ps }) :=
  unlessRst_clear (s := startOp op s) hr

theorem perform_ok {α : Type} {op : Byte} {checks : State → Except FaultReason α}
    {body : α → State → Host.Outcome State Fault Refusal} {s : State} {ps : List Pin} {a : α}
    (hr : reading s.pins = .clear ps) (h : checks (startOp op { s with pins := ps }) = .ok a) :
    perform op checks body s = body a (startOp op { s with pins := ps }) := by
  simp only [perform_clear hr, h]

theorem perform_error {α : Type} {op : Byte} {checks : State → Except FaultReason α}
    {body : α → State → Host.Outcome State Fault Refusal} {s : State} {ps : List Pin} {r : FaultReason}
    (hr : reading s.pins = .clear ps) (h : checks (startOp op { s with pins := ps }) = .error r) :
    perform op checks body s = .next (raise r (startOp op { s with pins := ps })) := by
  simp only [perform_clear hr, h]

/-- An operation without checks runs its body. -/
theorem perform_noChecks {op : Byte} {body : Unit → State → Host.Outcome State Fault Refusal} {s : State} {ps : List Pin}
    (hr : reading s.pins = .clear ps) : perform op noChecks body s = body () (startOp op { s with pins := ps }) :=
  perform_ok (checks := noChecks) hr rfl

/-- RST right after the request is taken. -/
theorem perform_rst {α : Type} {op : Byte} {checks : State → Except FaultReason α}
    {body : α → State → Host.Outcome State Fault Refusal} {s : State} {ps : List Pin} (hr : reading s.pins = .rst ps) :
    perform op checks body s = .next (resetRegs { s with pins := ps }) := by
  rw [perform, unlessRst_rst (s := startOp op s) hr]
  rfl

/-- All that an operation can do: RST abandons it, or its first failing check raises, or its body runs. -/
theorem perform_cases {α : Type} {op : Byte} {checks : State → Except FaultReason α}
    {body : α → State → Host.Outcome State Fault Refusal} {s t : State} (h : perform op checks body s = .next t) :
    (∃ ps, reading s.pins = .rst ps ∧ t = resetRegs { s with pins := ps }) ∨
    ∃ ps, reading s.pins = .clear ps ∧
      ((∃ r, checks (startOp op { s with pins := ps }) = .error r ∧ t = raise r (startOp op { s with pins := ps })) ∨
        (∃ a, checks (startOp op { s with pins := ps }) = .ok a ∧ body a (startOp op { s with pins := ps }) = .next t)) := by
  cases hr : reading s.pins with
  | rst ps =>
    rw [perform_rst hr] at h
    exact .inl ⟨ps, rfl, (Host.Outcome.next.inj h).symm⟩
  | clear ps =>
    refine .inr ⟨ps, rfl, ?_⟩
    cases hc : checks (startOp op { s with pins := ps }) with
    | error r =>
      rw [perform_error hr hc] at h
      exact .inl ⟨r, rfl, (Host.Outcome.next.inj h).symm⟩
    | ok a =>
      rw [perform_ok hr hc] at h
      exact .inr ⟨a, rfl, h⟩

/-- A block that waits goes on with its outstanding transfer. -/
theorem resume_xfer {kind : XferKind} {x : Transfer} {eff : Effect} {w : List Action} {s : State}
    (h : s.work = .xfer kind x eff :: w) : resume s = await kind eff (.xfer kind x eff :: w) (run w) s := by
  simp only [resume, h]

end Sys2Proof.Machine
end

