-- ==== Sys2Proof/Laws/Exec.lean ====
section
/-! SUPPORT. All that an instruction can do, said once: each claim about every instruction follows from the
cases of `Course`, without unfolding exec. -/

namespace Sys2Proof.Machine

/-- What one instruction can do when it gives a next state. -/
inductive Course (i : Instr) (s t : State) : Prop
  /-- A check failed: fault entry at the start; BAD_OPERAND only for a bad field. -/
  | refused (r : FaultReason) (hr : r.code ≠ .transport) (hb : r.code = .badOperand → ¬ operandsGood i) (h : t = raise r (startOp i.opsel s))
  /-- One device command. -/
  | command (b : List Byte) (eff : Effect) (hb : bulkLengths.contains (b.headD 0, b.length) = true)
    (he : eff = .none ∨ ∃ q c, i = .quantSamplerate q ∧ eff = .sampleT c)
    (h : t = run (deviceCommand params b eff) (startOp i.opsel s))
  /-- The relay transfer. -/
  | relays (mask : RelayMask) (hi : ∃ a b c d e, i = .encRelays a b c d e)
    (h : t = run [.relays mask] (startOp i.opsel s))
  /-- The offsets transfer. -/
  | offsets (w0 w1 wt : HalfWord) (hi : ∃ a b c d e f, i = .encOffsets a b c d e f)
    (h : t = run [.xfer .offsets (offsetsTransfer params w0 w1 wt) .none] (startOp i.opsel s))
  /-- APPLY past its checks. -/
  | applied (c : CfgOperand) (cfg : InstrumentConfig) (code : BitVec 4) (hi : i = .apply c)
    (hv : validate c (startOp i.opsel s) = .ok (cfg, code))
    (h : t = run (applySteps params s.cal cfg code) (writeCfg cfg (startOp i.opsel s)))
  /-- An end without a transfer: CAL only by CAL_LOAD, the buffers only by the frame operations. -/
  | ended (v : ResValue) (cal : CalFile) (calValid : Bool) (ibuf obuf : Memory)
    (hc : cal = s.cal ∧ calValid = s.calValid ∨ ∃ lv, i = .calLoad lv)
    (hn : ibuf = s.ibuf ∨ ((∃ a b c, i = .unwrap a b c) ∨ ∃ a b c, i = .assembleFrame a b c))
    (hm : obuf = s.obuf ∨ i = .buildDataHeader ∨ i = .buildStoppedFrame ∨
      ((∃ a b c, i = .unwrap a b c) ∨ ∃ a b c, i = .assembleFrame a b c))
    (wn : Memory.wf ibufSize s.ibuf = true → Memory.wf ibufSize ibuf = true)
    (wm : Memory.wf obufSize s.obuf = true → Memory.wf obufSize obuf = true)
    (h : t = post v { startOp i.opsel s with cal := cal, calValid := calValid, ibuf := ibuf, obuf := obuf })
  /-- RESET. -/
  | reset (hi : i = .reset) (h : t = post (.count 0) (resetRegs s))

theorem emit_next {w : List Action} {s t : State} (h : emit w s = .next t) : t = run w s :=
  (Host.Outcome.next.inj h).symm

/-- What a failing check of `i` can raise. -/
def checkFault (i : Instr) (r : FaultReason) : Prop :=
  r.code ≠ .transport ∧ (r.code = .badOperand → ¬ operandsGood i)

theorem checkFault_of_fields {α : Type} {i : Instr} {e : Except FaultReason α} {r : FaultReason}
    (h : verdict e = checkOf (operandFields i)) (he : e = .error r) : checkFault i r := by
  obtain ⟨off, hb, rfl⟩ := error_of_check h he
  refine ⟨fun hc => (by cases hc), fun _ hg => ?_⟩
  rw [operandsGood, hb] at hg
  cases hg

theorem checkFault_of_require {i : Instr} {ok : Bool} {r q : FaultReason} (h1 : q.code ≠ .transport)
    (h2 : q.code ≠ .badOperand) (h : require ok q = .error r) : checkFault i r := by
  cases ok with
  | true => cases h
  | false =>
    obtain rfl := Except.error.inj h
    exact ⟨h1, fun hc => absurd hc h2⟩

theorem checkFault_of_requireRate {i : Instr} {req : Rat} {r : FaultReason} (h : requireRate req = .error r) :
    checkFault i r := by
  unfold requireRate at h
  split at h
  · cases h
  · obtain rfl := Except.error.inj h
    exact ⟨fun hc => (by cases hc), fun hc => (by cases hc)⟩

theorem checkFault_of_bind {α β : Type} {i : Instr} {e : Except FaultReason α} {f : α → Except FaultReason β}
    {r : FaultReason} (he : ∀ r, e = .error r → checkFault i r) (hf : ∀ a r, f a = .error r → checkFault i r)
    (h : (e >>= f) = .error r) : checkFault i r := by
  cases e with
  | error q =>
    obtain rfl := Except.error.inj h
    exact he _ rfl
  | ok a => exact hf a r h

theorem checkFault_of_pure {α : Type} {i : Instr} {a : α} {r : FaultReason}
    (h : (pure a : Except FaultReason α) = .error r) : checkFault i r := by cases h

theorem cases_of_perform {α : Type} {op : Byte} {checks : State → Except FaultReason α}
    {body : α → State → Host.Outcome State Fault Refusal} {s t : State} {P : Prop}
    {ps : List Pin} (hp : reading s.pins = .clear ps) (h : perform op checks body s = .next t)
    (h1 : ∀ r, checks (startOp op { s with pins := ps }) = .error r → t = raise r (startOp op { s with pins := ps }) → P)
    (h2 : ∀ a, checks (startOp op { s with pins := ps }) = .ok a →
      body a (startOp op { s with pins := ps }) = .next t → P) : P := by
  rcases perform_cases h with ⟨qs, hq, _⟩ | ⟨qs, hq, h⟩
  · cases hq.symm.trans hp
  · cases hq.symm.trans hp
    rcases h with ⟨r, hr, ht⟩ | ⟨a, ha, hb⟩
    · exact h1 r hr ht
    · exact h2 a ha hb

/-- RST before an operation shows anything abandons it, whichever it is. -/
theorem exec_rst {i : Instr} {s : State} {ps : List Pin} (h : reading s.pins = .rst ps) :
    exec i s = .next (resetRegs { s with pins := ps }) := by
  cases i
  case reset =>
    rw [exec, execReset]
    exact unlessRst_rst h
  all_goals
    simp only [exec, execCalLoad, execCalLookup, execEncVoltage, execEncRelays, execEncTrigin, execEncChannels,
      execEncRamlen, execQuantSamplerate, execEncTriglen, execEncFilter, execEncOffsets, execApply, execCapStart,
      execCapTrigen, execCapForcetrig, execCapQuerystate, execCapGetdata, captureOp, execDecodeCapstate, execDecodeTp,
      execUnwrap, execBuildDataHeader, execBuildStoppedFrame, execAssembleFrame, execGetConfig]
    exact perform_rst h

/-- An instruction that RST does not abandon at once and that gives a next state takes one of the courses. -/
theorem course_of_exec_clear {i : Instr} {s t : State} {ps : List Pin} (hp : reading s.pins = .clear ps)
    (h : exec i s = .next t) : Course i { s with pins := ps } t := by
  cases i
  case reset =>
    rw [exec, execReset, unlessRst_clear hp] at h
    exact .reset rfl (Host.Outcome.next.inj h).symm
  all_goals
    simp only [exec, execCalLoad, execCalLookup, execEncVoltage, execEncRelays, execEncTrigin, execEncChannels,
      execEncRamlen, execQuantSamplerate, execEncTriglen, execEncFilter, execEncOffsets, execApply, execCapStart,
      execCapTrigen, execCapForcetrig, execCapQuerystate, execCapGetdata, captureOp, execDecodeCapstate, execDecodeTp,
      execUnwrap, execBuildDataHeader, execBuildStoppedFrame, execAssembleFrame, execGetConfig] at h
    refine cases_of_perform hp h (fun r hr ht =>
      have hc : checkFault _ r := ?_
      .refused r hc.1 hc.2 ht) (fun a ha hb => ?_)
  -- the checks
  case calLookup.refine_1 =>
    refine checkFault_of_bind (fun r hr => checkFault_of_fields (lookup_check _ _) hr) (fun a r hr => ?_) hr
    refine checkFault_of_bind (fun r hr => checkFault_of_require (by intro hc; cases hc) (by intro hc; cases hc) hr)
      (fun _ r hr => ?_) hr
    exact checkFault_of_pure hr
  case encVoltage.refine_1 =>
    exact checkFault_of_fields (voltage_check _ _ _ _) hr
  case encRelays.refine_1 =>
    exact checkFault_of_fields (relay_check _ _ _ _ _) hr
  case encTrigin.refine_1 =>
    exact checkFault_of_fields (trigin_check _ _) hr
  case encChannels.refine_1 =>
    exact checkFault_of_fields (channels_check _) hr
  case encRamlen.refine_1 =>
    exact checkFault_of_fields (ramlen_check _) hr
  case quantSamplerate.refine_1 =>
    refine checkFault_of_bind (fun r hr => checkFault_of_fields (rate_check _) hr) (fun a r hr => ?_) hr
    exact checkFault_of_requireRate hr
  case encTriglen.refine_1 =>
    exact checkFault_of_fields (triglen_check _ _) hr
  case encOffsets.refine_1 =>
    refine checkFault_of_bind (fun r hr => checkFault_of_fields (offset_check _ _ _ _ _ _) hr) (fun a r hr => ?_) hr
    refine checkFault_of_bind (fun r hr => checkFault_of_require (by intro hc; cases hc) (by intro hc; cases hc) hr)
      (fun _ r hr => ?_) hr
    refine checkFault_of_bind (fun r hr => checkFault_of_require (by intro hc; cases hc) (by intro hc; cases hc) hr)
      (fun _ r hr => ?_) hr
    refine checkFault_of_bind (fun r hr => checkFault_of_require (by intro hc; cases hc) (by intro hc; cases hc) hr)
      (fun _ r hr => ?_) hr
    exact checkFault_of_pure hr
  case apply.refine_1 =>
    refine checkFault_of_bind (fun r hr => checkFault_of_fields (config_check _) hr) (fun a r hr => ?_) hr
    refine checkFault_of_bind (fun r hr => checkFault_of_require (by intro hc; cases hc) (by intro hc; cases hc) hr)
      (fun _ r hr => ?_) hr
    refine checkFault_of_bind (fun r hr => checkFault_of_require (by intro hc; cases hc) (by intro hc; cases hc) hr)
      (fun _ r hr => ?_) hr
    refine checkFault_of_bind (fun r hr => checkFault_of_require (by intro hc; cases hc) (by intro hc; cases hc) hr)
      (fun _ r hr => ?_) hr
    refine checkFault_of_bind (fun r hr => checkFault_of_requireRate hr) (fun _ r hr => ?_) hr
    exact checkFault_of_pure hr
  case decodeTp.refine_1 =>
    exact checkFault_of_fields (pointer_check _) hr
  case unwrap.refine_1 =>
    refine checkFault_of_bind (fun r hr => checkFault_of_require (by intro hc; cases hc) (by intro hc; cases hc) hr)
      (fun _ r hr => ?_) hr
    exact checkFault_of_require (by intro hc; cases hc) (by intro hc; cases hc) hr
  case buildDataHeader.refine_1 =>
    exact checkFault_of_require (by intro hc; cases hc) (by intro hc; cases hc) hr
  case assembleFrame.refine_1 =>
    refine checkFault_of_bind (fun r hr => checkFault_of_fields (pointer_check _) hr) (fun a r hr => ?_) hr
    refine checkFault_of_bind (fun r hr => checkFault_of_require (by intro hc; cases hc) (by intro hc; cases hc) hr)
      (fun _ r hr => ?_) hr
    refine checkFault_of_bind (fun r hr => checkFault_of_require (by intro hc; cases hc) (by intro hc; cases hc) hr)
      (fun _ r hr => ?_) hr
    refine checkFault_of_bind (fun r hr => checkFault_of_require (by intro hc; cases hc) (by intro hc; cases hc) hr)
      (fun _ r hr => ?_) hr
    exact checkFault_of_pure hr
  case calLoad.refine_1 | encFilter.refine_1 | capStart.refine_1 | capTrigen.refine_1 | capForcetrig.refine_1
    | capQuerystate.refine_1 | capGetdata.refine_1 | decodeCapstate.refine_1 | buildStoppedFrame.refine_1
    | getConfig.refine_1 => cases hr
  -- the operations that end without a transfer
  case calLoad.refine_2 lv =>
    exact .ended _ _ _ s.ibuf s.obuf (.inr ⟨lv, rfl⟩) (.inl rfl) (.inl rfl) id id (Host.Outcome.next.inj hb).symm
  case calLookup.refine_2 | decodeCapstate.refine_2 | decodeTp.refine_2 | getConfig.refine_2 =>
    exact .ended _ s.cal s.calValid s.ibuf s.obuf (.inl ⟨rfl, rfl⟩) (.inl rfl) (.inl rfl) id id
      (Host.Outcome.next.inj hb).symm
  case unwrap.refine_2 tp len block =>
    replace hb := settle_next hb
    simp only [bind, Except.bind] at hb
    split at hb
    · cases hb
    · rename_i u hu
      obtain ⟨n, m, rfl, wn, wm⟩ := unwrapBody_eq_ok hu
      exact .ended _ s.cal s.calValid n m (.inl ⟨rfl, rfl⟩) (.inr (.inl ⟨_, _, _, rfl⟩))
        (.inr (.inr (.inr (.inl ⟨_, _, _, rfl⟩)))) (fun _ => wn) wm (Except.ok.inj hb).symm
  case buildDataHeader.refine_2 =>
    replace hb := settle_next hb
    rw [dataHeaderBody_ok] at hb
    exact .ended _ s.cal s.calValid s.ibuf _ (.inl ⟨rfl, rfl⟩) (.inl rfl) (.inr (.inl rfl)) id
      (fun w => wf_write w (by rw [headerBytes_length]; decide)) (Except.ok.inj hb).symm
  case buildStoppedFrame.refine_2 =>
    replace hb := settle_next hb
    rw [stoppedHeaderBody_ok] at hb
    exact .ended _ s.cal s.calValid s.ibuf _ (.inl ⟨rfl, rfl⟩) (.inl rfl) (.inr (.inr (.inl rfl))) id
      (fun w => wf_write w (by rw [stoppedBytes_length]; decide)) (Except.ok.inj hb).symm
  case assembleFrame.refine_2 p len block =>
    replace hb := settle_next hb
    rw [dataHeaderBody_ok] at hb
    simp only [bind, Except.bind] at hb
    split at hb
    · cases hb
    · rename_i u hu
      obtain ⟨n, m, rfl, wn, wm⟩ := unwrapBody_eq_ok hu
      exact .ended _ s.cal s.calValid n m (.inl ⟨rfl, rfl⟩) (.inr (.inr ⟨_, _, _, rfl⟩))
        (.inr (.inr (.inr (.inr ⟨_, _, _, rfl⟩)))) (fun _ => wn)
        (fun w => wm (wf_write w (by rw [headerBytes_length]; decide))) (Except.ok.inj hb).symm
  -- the operations that emit
  case encRelays.refine_2 => exact .relays _ ⟨_, _, _, _, _, rfl⟩ (emit_next hb)
  case encOffsets.refine_2 => exact .offsets _ _ _ ⟨_, _, _, _, _, _, rfl⟩ (emit_next hb)
  case apply.refine_2 c => exact .applied c a.1 a.2 rfl ha (emit_next hb)
  case quantSamplerate.refine_2 q =>
    refine .command _ _ ?_ (.inr ⟨q, a, rfl, rfl⟩) (emit_next hb)
    exact (show ∀ c : BitVec 4, bulkLengths.contains ((setSamplerate params c).headD 0, (setSamplerate params c).length) = true
      from by decide) a
  case encTriglen.refine_2 =>
    refine .command _ _ ?_ (.inl rfl) (emit_next hb)
    simp [setTriglen, le32, leBytes, params, defaultLayoutTriglenHdr, bulkLengths]
  case encVoltage.refine_2 | encTrigin.refine_2 | encChannels.refine_2 | encRamlen.refine_2 | encFilter.refine_2
    | capStart.refine_2 | capTrigen.refine_2 | capForcetrig.refine_2 | capQuerystate.refine_2 | capGetdata.refine_2 =>
    exact .command _ _ rfl (.inl rfl) (emit_next hb)

/-- All that an instruction can do: RST abandons it at once, or it takes one of the courses. -/
theorem course_of_exec {i : Instr} {s t : State} (h : exec i s = .next t) :
    (∃ ps, reading s.pins = .rst ps ∧ t = resetRegs { s with pins := ps }) ∨
      ∃ ps, reading s.pins = .clear ps ∧ Course i { s with pins := ps } t := by
  cases hr : reading s.pins with
  | rst ps => exact .inl ⟨ps, rfl, (Host.Outcome.next.inj ((exec_rst hr).symm.trans h)).symm⟩
  | clear ps => exact .inr ⟨ps, rfl, course_of_exec_clear hr h⟩

end Sys2Proof.Machine
end

