-- ==== Sys2Proof/Laws/Float.lean ====
section
/-! SUPPORT. The arithmetic under f32 (spec/00_scope.md R14): the quotient nearest to a fraction, the binary
exponent of a fraction, and the values of the finite binary32 patterns, which rise with the pattern. -/

namespace Sys2Proof.Machine

/-- A power of two by an integer, with natural exponents. -/
theorem two_zpow_toNat (z : Int) : (2 : Rat) ^ z.toNat = (2 : Rat) ^ z * 2 ^ (-z).toNat := by
  rcases le_total 0 z with h | h
  · obtain ⟨k, rfl⟩ := Int.eq_ofNat_of_zero_le h
    simp
  · obtain ⟨k, hk⟩ := Int.exists_eq_neg_ofNat h
    subst hk
    have : (2 : Rat)^k ≠ 0 := by positivity
    simp [zpow_neg, this]

/-- No other natural number is nearer to `n / d`, and a tie has an even quotient. -/
theorem divNearestEven_nearest {n d : Nat} (hd : 0 < d) (k : Nat) (hk : k ≠ divNearestEven n d) :
    |(n : Rat) / d - divNearestEven n d| < |(n : Rat) / d - k| ∨
      (|(n : Rat) / d - divNearestEven n d| = |(n : Rat) / d - k| ∧ divNearestEven n d % 2 = 0) := by
  have hd' : (0 : Rat) < d := by exact_mod_cast hd
  have key : ((n : Rat) / d) = (n / d : Nat) + ((n % d : Nat) : Rat) / d := by
    rw [div_eq_iff hd'.ne', add_mul, div_mul_cancel₀ _ hd'.ne']
    exact_mod_cast (Nat.div_add_mod' n d).symm
  have hr : n % d < d := Nat.mod_lt _ hd
  rw [key]
  have x0 : (0 : Rat) ≤ ((n % d : Nat) : Rat) / d := by positivity
  have hx (c : Rat) : ((n % d : Nat) : Rat) / d ≤ c ↔ ((n % d : Nat) : Rat) ≤ c * d := div_le_iff₀ hd'
  have hx2 (c : Rat) : c ≤ ((n % d : Nat) : Rat) / d ↔ c * d ≤ ((n % d : Nat) : Rat) := le_div_iff₀ hd'
  have x1 : ((n % d : Nat) : Rat) / d < 1 := by rw [div_lt_one hd']; exact_mod_cast hr
  have big : 2 * (n % d) > d → 1 / 2 < ((n % d : Nat) : Rat) / d := by
    intro h; rw [lt_div_iff₀ hd']; have : (d : Rat) < 2 * (n % d : Nat) := by exact_mod_cast h
    linarith
  have half : 2 * (n % d) = d → ((n % d : Nat) : Rat) / d = 1 / 2 := by
    intro h; rw [div_eq_iff hd'.ne']; have : (2 * (n % d : Nat) : Rat) = d := by exact_mod_cast h
    linarith
  have small : 2 * (n % d) < d → ((n % d : Nat) : Rat) / d < 1 / 2 := by
    intro h; rw [div_lt_iff₀ hd']; have : 2 * (n % d : Nat) < (d : Rat) := by exact_mod_cast h
    linarith
  have hk' : k ≠ if 2 * (n % d) > d ∨ 2 * (n % d) = d ∧ (n / d) % 2 = 1 then n / d + 1 else n / d := hk
  have hm : divNearestEven n d =
      if 2 * (n % d) > d ∨ 2 * (n % d) = d ∧ (n / d) % 2 = 1 then n / d + 1 else n / d := rfl
  rw [hm]
  generalize ((n % d : Nat) : Rat) / d = f at *
  generalize n / d = q at *
  have kk : ∀ a b : Nat, a ≤ b → (a : Rat) ≤ b := fun a b h => by exact_mod_cast h
  split
  · rename_i h
    rw [if_pos h] at hk'
    have f2 : 1 / 2 ≤ f := by rcases h with h | h; exact (big h).le; exact (half h.1).ge
    have e : |(q + f : Rat) - (q + 1 : Nat)| = 1 - f := by push_cast; rw [abs_of_nonpos] <;> linarith
    rw [e]
    rcases Nat.lt_or_gt_of_ne hk' with h' | h'
    · have := kk k q (by omega)
      rw [abs_of_nonneg (by linarith)]
      rcases h with h | h
      · left; have := big h; linarith
      · have := half h.1
        rcases Nat.eq_or_lt_of_le (show k ≤ q by omega) with rfl | h''
        · right; constructor; linarith; omega
        · left; have := kk (k+1) q (by omega); push_cast at this; linarith
    · have := kk (q + 1 + 1) k (by omega)
      push_cast at this
      rw [abs_of_nonpos (by linarith)]
      left; linarith
  · rename_i h
    rw [if_neg h] at hk'
    have h0 : 2 * (n % d) < d ∨ (2 * (n % d) = d ∧ q % 2 = 0) := by omega
    have f2 : f ≤ 1 / 2 := by rcases h0 with h | h; exact (small h).le; exact (half h.1).le
    have e : |(q + f : Rat) - q| = f := by rw [abs_of_nonneg] <;> linarith
    rw [e]
    rcases Nat.lt_or_gt_of_ne hk' with h' | h'
    · have := kk (k + 1) q (by omega)
      push_cast at this
      rw [abs_of_nonneg (by linarith)]
      left; linarith
    · have := kk (q + 1) k (by omega)
      push_cast at this
      rw [abs_of_nonpos (by linarith)]
      rcases h0 with h | h
      · left; have := small h; linarith
      · have := half h.1
        rcases Nat.eq_or_lt_of_le (show q + 1 ≤ k by omega) with rfl | h''
        · right; constructor; push_cast; linarith; omega
        · left; have := kk (q+1+1) k (by omega); push_cast at this; linarith

/-- Patterns up to `2^24` step by `2^-149`. -/
theorem patternValue_low {p : Nat} (h : p ≤ 2 ^ 24) : patternValue p = p / 2 ^ 149 := by
  unfold patternValue
  split
  · rfl
  · rcases Nat.lt_or_ge p (2 ^ 24) with h' | h'
    · have e : p / 2 ^ 23 = 1 := by omega
      have : 2 ^ 23 + p % 2 ^ 23 = p := by omega
      rw [e, this]; norm_num; ring
    · have : p = 2 ^ 24 := by omega
      subst this; norm_num

/-- A greater pattern has a greater value. -/
theorem patternValue_strictMono : StrictMono patternValue := by
  apply strictMono_nat_of_lt_succ
  intro p
  rcases Nat.lt_or_ge (p + 1) (2 ^ 24) with h | h
  · rw [patternValue_low (by omega), patternValue_low (by omega)]
    push_cast; gcongr; linarith
  · have v : ∀ r, 2 ^ 23 ≤ r →
        patternValue r = ((2 ^ 23 + r % 2 ^ 23 : Nat) : Rat) * 2 ^ (r / 2 ^ 23) / 2 ^ 150 := by
      intro r hr; unfold patternValue; rw [if_neg (by omega)]
    rw [v _ (by omega), v _ (by omega)]
    apply div_lt_div_of_pos_right _ (by positivity)
    by_cases hm : (p + 1) % 2 ^ 23 = 0
    · have e : (p + 1) / 2 ^ 23 = p / 2 ^ 23 + 1 := by omega
      have : p % 2 ^ 23 = 2 ^ 23 - 1 := by omega
      rw [hm, e, this, pow_succ (2 : Rat) (p / 2 ^ 23)]
      generalize p / 2 ^ 23 = a
      have : (0 : Rat) < 2 ^ a := by positivity
      generalize (2 : Rat) ^ a = z at *
      push_cast
      linarith
    · have e : (p + 1) / 2 ^ 23 = p / 2 ^ 23 := by omega
      have e2 : (p + 1) % 2 ^ 23 = p % 2 ^ 23 + 1 := by omega
      rw [e, e2]
      generalize p / 2 ^ 23 = a
      generalize p % 2 ^ 23 = b
      have : (0 : Rat) < 2 ^ a := by positivity
      refine mul_lt_mul_of_pos_right ?_ this
      exact Nat.cast_lt.2 (by omega)

/-- The patterns of one exponent are the multiples of its unit in the last place. -/
theorem patternValue_scaled (E k : Nat) (h1 : k ≤ 2 ^ 24) (h2 : E = 0 ∨ 2 ^ 23 ≤ k) :
    patternValue (E * 2 ^ 23 + k) = k * 2 ^ E / 2 ^ 149 := by
  rcases Nat.eq_zero_or_pos E with rfl | hE
  · rw [Nat.zero_mul, Nat.zero_add, patternValue_low h1]; simp
  · have h2 : 2 ^ 23 ≤ k := by omega
    unfold patternValue
    rw [if_neg (by omega)]
    rcases Nat.lt_or_ge k (2 ^ 24) with h | h
    · have e : (E * 2 ^ 23 + k) / 2 ^ 23 = E + 1 := by omega
      have : 2 ^ 23 + (E * 2 ^ 23 + k) % 2 ^ 23 = k := by omega
      rw [e, this, pow_succ]; ring
    · have hk : k = 2 ^ 24 := by omega
      have e : (E * 2 ^ 23 + k) / 2 ^ 23 = E + 2 := by omega
      have : 2 ^ 23 + (E * 2 ^ 23 + k) % 2 ^ 23 = 2 ^ 23 := by omega
      rw [e, this, pow_add, hk]; push_cast; ring

/-- The binary exponent of a positive fraction. -/
theorem binaryExponent_bounds {n d : Nat} (hn : 0 < n) (hd : 0 < d) :
    (2 : Rat) ^ binaryExponent n d ≤ n / d ∧ (n : Rat) / d < 2 ^ (binaryExponent n d + 1) := by
  have hd' : (0 : Rat) < d := by exact_mod_cast hd
  have n1 : (2 : Rat) ^ (Nat.log2 n) ≤ n := by exact_mod_cast Nat.log2_self_le hn.ne'
  have n2 : (n : Rat) < 2 ^ (Nat.log2 n + 1) := by exact_mod_cast Nat.lt_log2_self
  have d1 : (2 : Rat) ^ (Nat.log2 d) ≤ d := by exact_mod_cast Nat.log2_self_le hd.ne'
  have d2 : (d : Rat) < 2 ^ (Nat.log2 d + 1) := by exact_mod_cast Nat.lt_log2_self
  unfold binaryExponent
  set e : Int := (Nat.log2 n : Int) - Nat.log2 d with he
  have z : (0 : Rat) < 2 ^ e := by positivity
  have a1 : (2 : Rat) ^ e = 2 ^ n.log2 / 2 ^ d.log2 := by rw [he, zpow_sub₀ (by norm_num)]; simp
  have L : (2 : Rat) ^ e < 2 * (n / d) := by
    rw [a1, ← mul_div_assoc, div_lt_div_iff₀ (by positivity) hd']
    have : (d : Rat) < 2 * 2 ^ d.log2 := by rw [pow_succ] at d2; linarith
    have p : (0 : Rat) < 2 ^ n.log2 := by positivity
    have p' : (0 : Rat) < 2 ^ d.log2 := by positivity
    nlinarith
  have U : (n : Rat) / d < 2 * 2 ^ e := by
    rw [a1, ← mul_div_assoc, div_lt_div_iff₀ hd' (by positivity)]
    have : (n : Rat) < 2 * 2 ^ n.log2 := by rw [pow_succ] at n2; linarith
    have p : (0 : Rat) < 2 ^ n.log2 := by positivity
    have p' : (0 : Rat) < 2 ^ d.log2 := by positivity
    nlinarith
  have c : (2 ^ (-e).toNat * n < 2 ^ e.toNat * d) ↔ (n : Rat) / d < 2 ^ e := by
    rw [div_lt_iff₀ hd']
    have t := two_zpow_toNat e
    have q : (0 : Rat) < 2 ^ (-e).toNat := by positivity
    rw [← Nat.cast_lt (α := Rat)]
    push_cast
    rw [t]
    constructor
    · intro h; nlinarith
    · intro h; nlinarith
  show (2 : Rat) ^ (if 2 ^ (-e).toNat * n < 2 ^ e.toNat * d then e - 1 else e) ≤ n / d ∧
    (n : Rat) / d < 2 ^ ((if 2 ^ (-e).toNat * n < 2 ^ e.toNat * d then e - 1 else e) + 1)
  by_cases hc : 2 ^ (-e).toNat * n < 2 ^ e.toNat * d
  · rw [if_pos hc, Int.sub_add_cancel, zpow_sub_one₀ (by norm_num)]
    have h := c.1 hc
    exact ⟨by linarith, h⟩
  · rw [if_neg hc, zpow_add_one₀ (by norm_num)]
    have h := not_lt.1 (fun x => hc (c.2 x))
    exact ⟨h, by linarith⟩

end Sys2Proof.Machine
end

