-- ==== Sys2Proof/Laws/Handshake.lean ====
section
/-! SUPPORT. What the ports settle at a step, case by case: one lemma for each case of `fetch` and of `accept`. -/

namespace Sys2Proof.Machine

/-- The default parameters are an instance that may run (30_encoding.md R73, 00_scope.md R11). -/
theorem instanceOk_params : instanceOk params = true := by decide

/-- An idle block looks at RST and then at its request port. -/
theorem fetch_idle {s : State} (hb : s.busy = false) : fetch s = unlessRst (fun t => .settled (.next t)) takeRequest s := by
  rw [fetch, if_pos instanceOk_params, hb]
  rfl

theorem fetch_idle_clear {s : State} {ps : List Pin} (hb : s.busy = false) (h : reading s.pins = .clear ps) :
    fetch s = takeRequest { s with pins := ps } := by rw [fetch_idle hb, unlessRst_clear h]

theorem fetch_idle_rst {s : State} {ps : List Pin} (hb : s.busy = false) (h : reading s.pins = .rst ps) :
    fetch s = .settled (.next (resetRegs { s with pins := ps })) := by rw [fetch_idle hb, unlessRst_rst h]

/-- RST resets a busy block. -/
theorem fetch_busy_rst {s : State} {ps : List Pin} (hb : s.busy = true) (h : arrival s.pins = .rst ps) :
    fetch s = .settled (.next (resetRegs { s with pins := ps })) := by
  simp only [fetch, instanceOk_params, if_true, hb, h]

/-- Without RST a busy block goes on. -/
theorem fetch_busy {s : State} (h : ∀ ps, arrival s.pins ≠ .rst ps) (hb : s.busy = true) :
    fetch s = .settled (.next (resume s)) := by
  simp only [fetch, instanceOk_params, if_true, hb]

theorem faulted_iff (s : State) : faulted s = true ↔ s.fault.code ≠ 0 := by simp [faulted]

/-- In the fault state every request but RESET is refused. -/
theorem accept_faulted {r : Request} {s : State} (hf : s.fault.code ≠ 0) (hr : r.opsel ≠ 0x3F) :
    accept r s = .settled (unlessRst .next (fun t => .next (postFaulted t)) s) := by
  rw [accept, if_pos]
  rw [(faulted_iff s).2 hf, Bool.true_and, bne_iff_ne]
  exact hr

/-- A request is looked at in no fault state, and RESET in every state. -/
theorem accept_taken {r : Request} {s : State} (h : s.fault.code = 0 ∨ r.opsel = 0x3F) :
    accept r s = match decode r with
      | .ok i => .instruction i s
      | .error (.reservedOpsel op) =>
        .settled (unlessRst .next (fun t => .next (raise ⟨.illegalOp, op.setWidth 32⟩ t)) (startOp op s))
      | .error (.malformedRecord op) => .settled (.refused (.malformedRequest op)) := by
  have hn : (faulted s && r.opsel != 0x3F) = false := by
    rcases h with h | h
    · simp [faulted, h]
    · simp [h]
  rw [accept, hn]
  rfl

/-- What a step of an idle block can be, without RST. -/
theorem takeRequest_cases (s : State) :
    (s.reqs = [] ∧ takeRequest s = .settled (.next { s with pins := withoutStray s.pins })) ∨
      ∃ r rs, s.reqs = r :: rs ∧ takeRequest s = accept r { s with reqs := rs } := by
  unfold takeRequest
  cases s.reqs with
  | nil => exact .inl ⟨rfl, rfl⟩
  | cons r rs => exact .inr ⟨r, rs, rfl, rfl⟩

end Sys2Proof.Machine
end

