-- ==== Sys2Proof/Laws/PerInstr.lean ====
section
/-! SUPPORT. Lemmas about every operation as syntax, one for each constructor. -/

namespace Sys2Proof.Laws

/-- The sizes of the operand records (30_encoding.md R64): a head of fixed size, and the block. -/
def recordBytes : Instr → Nat
  | .calLoad _ => 72
  | .calLookup _ _ => 2
  | .encVoltage _ _ _ _ => 4
  | .encRelays _ _ _ _ _ => 5
  | .encTrigin _ _ => 2
  | .encChannels _ => 1
  | .encRamlen _ => 1
  | .quantSamplerate _ => 16
  | .encTriglen _ _ => 17
  | .encFilter => 0
  | .encOffsets _ _ _ _ _ _ => 51
  | .apply _ => 88
  | .capStart => 0
  | .capTrigen => 0
  | .capForcetrig => 0
  | .capQuerystate => 0
  | .capGetdata => 0
  | .decodeCapstate _ => 4
  | .decodeTp _ => 4
  | .unwrap _ len _ => 6 + len.toNat
  | .buildDataHeader => 0
  | .buildStoppedFrame => 0
  | .assembleFrame _ len _ => 8 + len.toNat
  | .getConfig => 0
  | .reset => 0

/-- A well-formed operation's record has the size R64 gives it. -/
def RecordSize.Statement (i : Instr) : Prop := i.wellFormed = true → i.operandBytes.length = recordBytes i

theorem RecordSize.calLoad (lv : CalFile) : RecordSize.Statement (.calLoad lv) := fun _ => by
  simp [Instr.operandBytes, recordBytes, encodeRow_length]
theorem RecordSize.calLookup (c r : Byte) : RecordSize.Statement (.calLookup c r) := fun _ => rfl
theorem RecordSize.encVoltage (r0 cp0 r1 cp1 : Byte) : RecordSize.Statement (.encVoltage r0 cp0 r1 cp1) := fun _ => rfl
theorem RecordSize.encRelays (r0 cp0 r1 cp1 src : Byte) : RecordSize.Statement (.encRelays r0 cp0 r1 cp1 src) :=
  fun _ => rfl
theorem RecordSize.encTrigin (src slope : Byte) : RecordSize.Statement (.encTrigin src slope) := fun _ => rfl
theorem RecordSize.encChannels (sel : Byte) : RecordSize.Statement (.encChannels sel) := fun _ => rfl
theorem RecordSize.encRamlen (dl : Byte) : RecordSize.Statement (.encRamlen dl) := fun _ => rfl
theorem RecordSize.quantSamplerate (req : QOperand) : RecordSize.Statement (.quantSamplerate req) := fun _ =>
  encodeQ_length req
theorem RecordSize.encTriglen (dl : Byte) (ta : QOperand) : RecordSize.Statement (.encTriglen dl ta) := fun _ => by
  simp [Instr.operandBytes, recordBytes, encodeQ_length]
theorem RecordSize.encFilter : RecordSize.Statement .encFilter := fun _ => rfl
theorem RecordSize.encOffsets (r0 : Byte) (off0 : QOperand) (r1 : Byte) (off1 : QOperand) (src : Byte)
    (toff : QOperand) : RecordSize.Statement (.encOffsets r0 off0 r1 off1 src toff) := fun _ => by
  simp [Instr.operandBytes, recordBytes, encodeQ_length]
theorem RecordSize.apply (cfg : CfgOperand) : RecordSize.Statement (.apply cfg) := fun _ => encodeCfg_length cfg
theorem RecordSize.capStart : RecordSize.Statement .capStart := fun _ => rfl
theorem RecordSize.capTrigen : RecordSize.Statement .capTrigen := fun _ => rfl
theorem RecordSize.capForcetrig : RecordSize.Statement .capForcetrig := fun _ => rfl
theorem RecordSize.capQuerystate : RecordSize.Statement .capQuerystate := fun _ => rfl
theorem RecordSize.capGetdata : RecordSize.Statement .capGetdata := fun _ => rfl
theorem RecordSize.decodeCapstate (v : Word) : RecordSize.Statement (.decodeCapstate v) := fun _ => leBytes_length 4 _
theorem RecordSize.decodeTp (p : Word) : RecordSize.Statement (.decodeTp p) := fun _ => leBytes_length 4 _
theorem RecordSize.unwrap (tp : HalfWord) (len : Word) (block : List Byte) :
    RecordSize.Statement (.unwrap tp len block) := fun h => by
  have hb : block.length = len.toNat := by simpa [Instr.wellFormed, blockFits] using h
  simp [Instr.operandBytes, recordBytes, leBytes_length, hb]
  omega
theorem RecordSize.buildDataHeader : RecordSize.Statement .buildDataHeader := fun _ => rfl
theorem RecordSize.buildStoppedFrame : RecordSize.Statement .buildStoppedFrame := fun _ => rfl
theorem RecordSize.assembleFrame (p len : Word) (block : List Byte) :
    RecordSize.Statement (.assembleFrame p len block) := fun h => by
  have hb : block.length = len.toNat := by simpa [Instr.wellFormed, blockFits] using h
  simp [Instr.operandBytes, recordBytes, leBytes_length, hb]
  omega
theorem RecordSize.getConfig : RecordSize.Statement .getConfig := fun _ => rfl
theorem RecordSize.reset : RecordSize.Statement .reset := fun _ => rfl

end Sys2Proof.Laws
end

