-- ==== Sys2Proof/Laws/Pointer.lean ====
section
/-! SUPPORT. The bits of the pointer transform (spec/45_frame_assembler.md R187, R188). -/

namespace Sys2Proof.Machine

/-- The XOR of the `m` bits from bit 15 downward. -/
def xorFromTop (x : BitVec 18) : Nat → Bool
  | 0 => false
  | m + 1 => x.getLsbD 15 ^^ xorFromTop (x <<< 1) m

/-- What `n` steps of the transform leave in each bit. -/
theorem tpLoop_bit : ∀ (n : Nat) (x : BitVec 18) (acc : HalfWord) (j : Nat), n ≤ 16 → j < 16 →
    (tpLoop n x acc).getLsbD j =
      if j < n then acc.getLsbD 0 ^^ xorFromTop x (n - j) else acc.getLsbD (j - n) := by
  intro n
  induction n with
  | zero => intro x acc j _ _; simp [tpLoop]
  | succ n ih =>
    intro x acc j hn hj
    rw [tpLoop, ih _ _ _ (by omega) hj]
    by_cases h : j < n
    · rw [if_pos h, if_pos (by omega), show n + 1 - j = (n - j) + 1 by omega]
      simp [tpStep, xorFromTop]
    · rw [if_neg h]
      by_cases h' : j < n + 1
      · have : j = n := by omega
        subst this
        simp [tpStep, xorFromTop]
      · rw [if_neg h']
        have : j - n ≠ 0 := by omega
        simp [tpStep, BitVec.getLsbD_ofBool, this, show j - n < 16 by omega, show j - n - 1 = j - (n + 1) by omega]
        rw [BitVec.getLsbD_eq_getElem]

/-- Each bit of the transform of a pointer. -/
theorem tpTransform_bit (p : Word) {i : Nat} (h : i < 16) :
    (tpTransform p).getLsbD i = xorFromTop (BitVec.setWidth 18 p) (16 - i) := by
  rw [tpTransform, tpLoop_bit 16 _ _ _ le_rfl h, if_pos h]
  simp

end Sys2Proof.Machine
end

