-- ==== Sys2Proof/Laws/Sequence.lean ====
section
/-! SUPPORT. The course of actions whose transfers succeed: the state they leave, the number of their
transfers, and the run of what comes after them (spec/41_command_encoder.md R101, R103). -/

namespace Sys2Proof.Machine

/-- The state after the success of a transfer, its pins apart. -/
def afterXfer (eff : Effect) (x : Transfer) (s : State) : State :=
  applyEffect eff { offer x s with xferValid := false, done := s.done + 1 }

/-- The state after actions whose transfers all succeed, its pins apart. -/
def afterAll : List Action → State → State
  | [], s => s
  | .seq k :: w, s => afterAll w (writeSeq k s)
  | .xfer _ x eff :: w, s => afterAll w (afterXfer eff x s)
  | .relays m :: w, s =>
    if relaySuppressed m s then afterAll w s
    else afterAll w (afterXfer (.relayShadow m) (relaysTransfer params m) s)

/-- The number of transfers that the actions offer from a state. -/
def xferCount : List Action → State → Nat
  | [], _ => 0
  | .seq k :: w, s => xferCount w (writeSeq k s)
  | .xfer _ x eff :: w, s => xferCount w (afterXfer eff x s) + 1
  | .relays m :: w, s =>
    if relaySuppressed m s then xferCount w s
    else xferCount w (afterXfer (.relayShadow m) (relaysTransfer params m) s) + 1

theorem complete_eq_afterXfer (eff : Effect) (x : Transfer) (s : State) (p r : List Pin) :
    complete eff r (offer x { s with pins := p }) = { afterXfer eff x s with pins := r } := by
  cases eff <;> rfl

theorem relaySuppressed_pins (m : RelayMask) (s : State) (p : List Pin) :
    relaySuppressed m { s with pins := p } = relaySuppressed m s := rfl

/-- Actions whose transfers all succeed, and then the rest from the state they leave. -/
theorem run_append_done (w v : List Action) : ∀ (s : State) (p q : List Pin),
    answered (List.replicate (xferCount w s) true) p q →
      run (w ++ v) { s with pins := p } = run v { afterAll w s with pins := q } := by
  induction w with
  | nil => rintro s p q rfl; rfl
  | cons a w ih =>
    intro s p q h
    cases a with
    | seq k => exact ih (writeSeq k s) p q h
    | xfer kind x eff =>
      obtain ⟨r, h1, h2⟩ := h
      rw [List.cons_append, run_xfer_done (ps := r) h1, complete_eq_afterXfer]
      exact ih _ _ _ h2
    | relays m =>
      rw [List.cons_append]
      cases hs : relaySuppressed m s with
      | true =>
        rw [run_relays_suppressed (by exact hs)]
        simp only [afterAll, xferCount, hs, if_true] at h ⊢
        exact ih _ _ _ h
      | false =>
        rw [run_relays_xfer (by exact hs)]
        simp only [afterAll, xferCount, hs] at h ⊢
        obtain ⟨r, h1, h2⟩ := h
        rw [run_xfer_done (ps := r) h1, complete_eq_afterXfer]
        exact ih _ _ _ h2

end Sys2Proof.Machine
end

