-- ==== Sys2Proof/Tests/Slice0.lean ====
section
/-! SUPPORT. Tests: the checks of WellFormed, one request written out from the spec for every constructor,
one step of every operation (expected values from spec/95_test_vectors.md, the table named in each comment),
and a witness for the hypotheses of every statement. -/

namespace Sys2Proof.Tests

open Sys2Proof Sys2Proof.Machine

/-! ## WellFormed -/

theorem test_wellFormed_refuses_short_unwrap : (Instr.unwrap 0 2 [1]).wellFormed = false := by decide
theorem test_wellFormed_refuses_long_frame : (Instr.assembleFrame 0 1 [1, 2]).wellFormed = false := by decide
theorem test_wellFormed_takes_block : (Instr.unwrap 0 2 [1, 2]).wellFormed = true := by decide

/-! ## Decoding: requests written out from 30_encoding.md R62 to R71 -/

/-- The 16 bytes of 1/2 (30_encoding.md R71). -/
def halfBytes : List Byte := [1, 0, 0, 0, 0, 0, 0, 0, 2, 0, 0, 0, 0, 0, 0, 0]

/-- 1/2. -/
def half : QOperand := ⟨1, 2⟩

/-- P1's 88 configuration bytes (95_test_vectors.md P1). -/
def e2eBytes : List Byte :=
  [0x02, 0x01] ++ (halfBytes ++ ([0x02, 0x01] ++ (halfBytes ++ ([0x00, 0x00] ++ (halfBytes ++ ([0x02, 0x01] ++
    ([0x01, 0, 0, 0, 0, 0, 0, 0, 0x00, 0xA0, 0x0F, 0, 0, 0, 0, 0] ++
      [0x32, 0, 0, 0, 0, 0, 0, 0, 0x01, 0, 0, 0, 0, 0, 0, 0])))))))

/-- P1's configuration, field by field. -/
def e2e : CfgOperand := ⟨2, 1, half, 2, 1, half, 0, 0, half, 2, 1, ⟨1, 1024000⟩, ⟨50, 1⟩⟩

/-- The pair of P1's calibration. -/
def calPair : CalPair := ⟨0x0040, 0x00C0⟩

/-- P1's calibration: every cell is (0x0040, 0x00C0). -/
def calRow : CalRow := ⟨calPair, calPair, calPair, calPair, calPair, calPair, calPair, calPair, calPair⟩

/-- The four bytes of a cell (30_encoding.md R64, R69). -/
def cellBytes : List Byte := [0x40, 0x00, 0xC0, 0x00]

theorem test_decode_calLoad :
    decode ⟨0x01, (List.replicate 18 cellBytes).flatten⟩ = .ok (.calLoad ⟨calRow, calRow⟩) := by decide +kernel
theorem test_decode_calLookup : decode ⟨0x02, [1, 8]⟩ = .ok (.calLookup 1 8) := by decide
theorem test_decode_encVoltage : decode ⟨0x10, [2, 1, 0, 2]⟩ = .ok (.encVoltage 2 1 0 2) := by decide
theorem test_decode_encRelays : decode ⟨0x11, [2, 1, 2, 0, 3]⟩ = .ok (.encRelays 2 1 2 0 3) := by decide
theorem test_decode_encTrigin : decode ⟨0x12, [3, 1]⟩ = .ok (.encTrigin 3 1) := by decide
theorem test_decode_encChannels : decode ⟨0x13, [2]⟩ = .ok (.encChannels 2) := by decide
theorem test_decode_encRamlen : decode ⟨0x14, [1]⟩ = .ok (.encRamlen 1) := by decide
/-- V4: 19/200000000 s. -/
theorem test_decode_quantSamplerate :
    decode ⟨0x15, [0x13, 0, 0, 0, 0, 0, 0, 0, 0x00, 0xC2, 0xEB, 0x0B, 0, 0, 0, 0]⟩ =
      .ok (.quantSamplerate ⟨19, 200000000⟩) := by decide +kernel
theorem test_decode_encTriglen : decode ⟨0x16, 2 :: halfBytes⟩ = .ok (.encTriglen 2 half) := by decide +kernel
theorem test_decode_encFilter : decode ⟨0x17, []⟩ = .ok .encFilter := by decide
/-- V7. -/
theorem test_decode_encOffsets :
    decode ⟨0x18, 2 :: (halfBytes ++ 2 :: (halfBytes ++ 0 :: halfBytes))⟩ = .ok (.encOffsets 2 half 2 half 0 half) := by
  decide +kernel
/-- P1. -/
theorem test_decode_apply : decode ⟨0x1F, e2eBytes⟩ = .ok (.apply e2e) := by decide +kernel
theorem test_decode_capStart : decode ⟨0x20, []⟩ = .ok .capStart := by decide
theorem test_decode_capTrigen : decode ⟨0x21, []⟩ = .ok .capTrigen := by decide
theorem test_decode_capForcetrig : decode ⟨0x22, []⟩ = .ok .capForcetrig := by decide
theorem test_decode_capQuerystate : decode ⟨0x23, []⟩ = .ok .capQuerystate := by decide
theorem test_decode_capGetdata : decode ⟨0x24, []⟩ = .ok .capGetdata := by decide
theorem test_decode_decodeCapstate : decode ⟨0x28, [3, 0, 1, 0x80]⟩ = .ok (.decodeCapstate 0x80010003) := by
  decide +kernel
/-- V9. -/
theorem test_decode_decodeTp : decode ⟨0x30, [0x01, 0x80, 0, 0]⟩ = .ok (.decodeTp 0x8001) := by decide +kernel
theorem test_decode_unwrap :
    decode ⟨0x31, [0x02, 0x01, 3, 0, 0, 0, 7, 8, 9]⟩ = .ok (.unwrap 0x0102 3 [7, 8, 9]) := by decide +kernel
theorem test_decode_buildDataHeader : decode ⟨0x32, []⟩ = .ok .buildDataHeader := by decide
theorem test_decode_buildStoppedFrame : decode ⟨0x33, []⟩ = .ok .buildStoppedFrame := by decide
theorem test_decode_assembleFrame :
    decode ⟨0x34, [0x03, 0, 0, 0, 2, 0, 0, 0, 5, 6]⟩ = .ok (.assembleFrame 3 2 [5, 6]) := by decide +kernel
theorem test_decode_getConfig : decode ⟨0x3E, []⟩ = .ok .getConfig := by decide
theorem test_decode_reset : decode ⟨0x3F, []⟩ = .ok .reset := by decide
/-- V1. -/
theorem test_decode_reserved :
    [0x00, 0x03, 0x19, 0x25, 0x29, 0x35, 0x40, 0xFF].all
      (fun op => decode ⟨op, [1, 2]⟩ == .error (.reservedOpsel op)) = true := by decide
theorem test_decode_left_over_byte : decode ⟨0x14, [1, 0]⟩ = .error (.malformedRecord 0x14) := by decide

/-! ## One step of each operation -/

/-- Reset, with a calibration, a sample clock and what the inputs bring. -/
def ready (ps : List Pin) : State :=
  { State.reset with cal := ⟨calRow, calRow⟩, calValid := true, sampleTCode := 4, sampleTValid := true, pins := ps }

/-- The transport completes two transfers. -/
def twice : List Pin := [.done true, .done true]

/-- The result port after a step. -/
def resultOf : Host.Outcome State Fault Refusal → Option (ResKind × ResValue)
  | .next s => if s.resValid && !s.busy then some (s.resKind, s.resValue) else none
  | _ => none

/-- What a step sent. -/
def sentBy : Host.Outcome State Fault Refusal → List Transfer
  | .next s => s.sent
  | _ => []

/-- The fault record after a step. -/
def faultOf : Host.Outcome State Fault Refusal → Option FaultRecord
  | .next s => some s.fault
  | _ => none

/-- A step sent BEGIN and then this bulk payload, and gave OK(2). -/
def sendsBulk (o : Host.Outcome State Fault Refusal) (bs : List Byte) : Bool :=
  sentBy o == [beginBytes, bulk bs] && resultOf o == some (.ok, .count 2)

theorem test_calLoad_posts_zero : resultOf (exec (.calLoad ⟨calRow, calRow⟩) State.reset) = some (.ok, .count 0) := by
  decide
/-- V2: the cell of CH1 at 1 V alone takes the override. -/
theorem test_calLoad_cells : overridden params ⟨calRow, calRow⟩ =
    ⟨⟨calPair, calPair, Config.calOverride, calPair, calPair, calPair, calPair, calPair, calPair⟩, calRow⟩ := rfl
/-- V2. -/
theorem test_calLookup_mv10 : resultOf (exec (.calLookup 1 8)
    { ready [] with cal := ⟨calRow, { calRow with mv10 := ⟨0x0122, 0x0123⟩ }⟩ }) =
    some (.ok, .pair ⟨0x0122, 0x0123⟩) := by decide
theorem test_calLookup_not_loaded : faultOf (exec (.calLookup 0 0) State.reset) = some ⟨4, 0x02, 0, 0, 0⟩ := by decide
/-- V3. -/
theorem test_encVoltage : sendsBulk (exec (.encVoltage 0 0 8 2) (ready twice)) [0x07, 0, 0, 0, 8, 2, 0, 0] = true := by
  decide
/-- V1. -/
theorem test_encVoltage_bad_cp1 : faultOf (exec (.encVoltage 2 1 2 3) State.reset) = some ⟨3, 0x10, 0, 0, 3⟩ := by
  decide
/-- V5. -/
theorem test_encRelays : sentBy (exec (.encRelays 6 2 8 1 3) (ready twice)) =
    [.controlOut 0xB5 0 0 [0, 1, 1, 0, 1, 1, 1, 1, 0, 0, 0, 0, 0, 0, 0, 0, 0]] := by decide
theorem test_encRelays_failed : faultOf (exec (.encRelays 2 1 2 1 0) (ready [.done false])) =
    some ⟨1, 0x11, 0, 0, 2⟩ := by decide
/-- V3. -/
theorem test_encTrigin : sendsBulk (exec (.encTrigin 3 1) (ready twice)) [0x0C, 0, 3, 1] = true := by decide
theorem test_encChannels : sendsBulk (exec (.encChannels 1) (ready twice)) [0x0B, 0, 1, 0] = true := by decide
theorem test_encRamlen : sendsBulk (exec (.encRamlen 2) (ready twice)) [0x0D, 0, 2, 0] = true := by decide
/-- V1. -/
theorem test_encRamlen_bad : faultOf (exec (.encRamlen 3) State.reset) = some ⟨3, 0x14, 0, 0, 0⟩ := by decide
/-- V4: 95 ns. -/
theorem test_quantSamplerate : sendsBulk (exec (.quantSamplerate ⟨19, 200000000⟩) (ready twice))
    [0x0E, 0, 0, 0, 0xF7, 0xFF, 0, 0] = true := by decide +kernel
/-- V4: 400 µs + 1 ns. -/
theorem test_quantSamplerate_above : faultOf (exec (.quantSamplerate ⟨400001, 1000000000⟩) State.reset) =
    some ⟨5, 0x15, 0, 0, 0⟩ := by decide +kernel
/-- V6: 333/10. -/
theorem test_encTriglen : sendsBulk (exec (.encTriglen 1 ⟨333, 10⟩) (ready twice))
    [0x0F, 0, 0, 0, 0x50, 0xE5, 0x07, 0, 0xAE, 0xF2, 0x07, 0] = true := by decide +kernel
/-- V6: -5 at LARGE. -/
theorem test_encTriglen_large : sendsBulk (exec (.encTriglen 2 ⟨-5, 1⟩) (ready twice))
    [0x0F, 0, 0, 0, 0x79, 0x14, 0, 0, 0x85, 0xEB, 0x07, 0] = true := by decide +kernel
theorem test_encFilter : sendsBulk (exec .encFilter (ready twice)) [0, 0, 0, 0] = true := by decide
/-- V7. -/
theorem test_encOffsets : sentBy (exec (.encOffsets 2 ⟨0, 1⟩ 2 ⟨1, 1⟩ 3 ⟨0, 1⟩) (ready twice)) =
    [.controlOut 0xB4 0 0 [0x20, 0x40, 0x20, 0xC0, 0x20, 0x7F]] := by decide +kernel
/-- V7: -1/10 on channel 2. -/
theorem test_encOffsets_range : faultOf (exec (.encOffsets 2 half 2 ⟨-1, 10⟩ 0 half) (ready [])) =
    some ⟨7, 0x18, 0, 0, 1⟩ := by decide +kernel
/-- P1's configuration as APPLY takes it. -/
def e2eConfig : InstrumentConfig := ⟨⟨.v1, .dc, 1 / 2⟩, ⟨.v1, .dc, 1 / 2⟩, ⟨.ch1, .pos, 1 / 2⟩, .both, .small,
  ⟨1 / 1024000, by decide +kernel⟩, 50⟩
/-- P1: the transfers of APPLY, once its request has selected code 4. -/
theorem test_apply_transfers :
    (run (applySteps params ⟨{ calRow with v1 := ⟨0x50, 0xB1⟩ }, calRow⟩ e2eConfig 4)
      (ready (List.replicate 16 (.done true)))).sent =
    [beginBytes, bulk [0x07, 0, 2, 1, 2, 1, 0, 0],
      .controlOut 0xB5 0 0 [0, 0, 0, 1, 0, 0, 1, 0, 0, 0, 0, 0, 0, 0, 0, 0, 0],
      beginBytes, bulk [0x0C, 0, 0, 0], beginBytes, bulk [0x0B, 0, 2, 0], beginBytes, bulk [0x0D, 0, 1, 0],
      beginBytes, bulk [0x0E, 0, 0, 0, 0xF7, 0xFF, 0, 0],
      beginBytes, bulk [0x0F, 0, 0, 0, 0xFF, 0xEB, 0x07, 0, 0xFF, 0xEB, 0x07, 0],
      beginBytes, bulk [0, 0, 0, 0], .controlOut 0xB4 0 0 [0x20, 0x81, 0x20, 0x80, 0x20, 0x7F]] := by decide +kernel
/-- V1: timeBase = 0. -/
theorem test_apply_timeBase : faultOf (exec (.apply { e2e with tb := ⟨0, 1⟩ }) (ready [])) =
    some ⟨3, 0x1F, 0, 0, 56⟩ := by decide +kernel
/-- V8. -/
theorem test_capStart : sendsBulk (exec .capStart (ready twice)) [0x03, 0] = true := by decide
theorem test_capTrigen : sendsBulk (exec .capTrigen (ready twice)) [0x04, 0] = true := by decide
theorem test_capForcetrig : sendsBulk (exec .capForcetrig (ready twice)) [0x02, 0] = true := by decide
theorem test_capQuerystate : sendsBulk (exec .capQuerystate (ready twice)) [0x06, 0] = true := by decide
theorem test_capGetdata : sendsBulk (exec .capGetdata (ready twice)) [0x05, 0] = true := by decide
/-- V3: the bulk write fails. -/
theorem test_capGetdata_failed : faultOf (exec .capGetdata (ready [.done true, .done false])) =
    some ⟨1, 0x24, 0, 1, 4⟩ := by decide
/-- V8. -/
theorem test_decodeCapstate_ready : resultOf (exec (.decodeCapstate 3) State.reset) =
    some (.ok, .capState .ready 3) := by decide
theorem test_decodeCapstate_unknown : resultOf (exec (.decodeCapstate 0x100) State.reset) =
    some (.ok, .capState .unknown 0x100) := by decide
/-- V9. -/
theorem test_decodeTp : resultOf (exec (.decodeTp 0x01234) State.reset) = some (.ok, .pointer 0x1C27) := by
  decide +kernel
theorem test_decodeTp_bad : faultOf (exec (.decodeTp 0x40000) State.reset) = some ⟨3, 0x30, 0, 0, 0⟩ := by
  decide +kernel
/-- V10. -/
theorem test_unwrap_length : faultOf (exec (.unwrap 10240 0 []) State.reset) = some ⟨9, 0x31, 0, 0, 0⟩ := by decide +kernel
/-- V10's rotation, on a block of eight bytes. -/
theorem test_unwrap_rotation : rotateBlock 2 [0, 1, 2, 3, 4, 5, 6, 7] = [4, 5, 6, 7, 0, 1, 2, 3] := by decide
/-- V11. -/
theorem test_buildDataHeader :
    (match exec .buildDataHeader { ready [] with cfg := e2eConfig } with
      | .next s => s.obuf.map (·.2)
      | _ => []) = [1, 0, 0x20, 0, 0x6F, 0x12, 0x83, 0x35, 0x95, 0xBF, 0xD6, 0x33] ++ List.replicate 20 0 := by
  decide +kernel
theorem test_buildDataHeader_unset : faultOf (exec .buildDataHeader State.reset) = some ⟨6, 0x32, 0, 0, 0⟩ := by decide
theorem test_buildStoppedFrame :
    (match exec .buildStoppedFrame State.reset with
      | .next s => s.obuf
      | _ => []) = Memory.cellsAt 0 ([2, 0, 0x20, 0] ++ List.replicate 28 0) := by decide +kernel
/-- P3, step 8. -/
theorem test_assembleFrame_range : faultOf (exec (.assembleFrame 0x8001 20480 []) (ready [])) =
    some ⟨8, 0x34, 0, 0, 0xFFFE⟩ := by decide +kernel
/-- V10. -/
theorem test_assembleFrame_length : faultOf (exec (.assembleFrame 3 20479 []) (ready [])) =
    some ⟨9, 0x34, 0, 0, 20479⟩ := by decide +kernel
theorem test_getConfig : resultOf (exec .getConfig { ready [] with cfg := e2eConfig }) =
    some (.ok, .config e2eConfig true 4) := by decide +kernel
theorem test_reset : resultOf (exec .reset (ready [])) = some (.ok, .count 0) := by decide

/-! RST (10_state.md R39, 70_reset_and_hazards.md R238): CAL_VALID after a step tells whether it came. -/

/-- CAL_VALID and the events left after a step of an idle block with GET_CONFIG on the port. -/
def afterGetConfig (ps : List Pin) : Option (Bool × Bool × List Pin) :=
  match step { ready ps with reqs := [⟨0x3E, []⟩] } with
  | .next s => some (s.calValid, s.resValid, s.pins)
  | _ => none

/-- RST before the request is taken, during the operation, and after its result. -/
theorem test_rst_around_getConfig : afterGetConfig [.rst] = some (false, false, []) ∧
    afterGetConfig [.quiet, .rst] = some (false, false, []) ∧
    afterGetConfig [.quiet, .quiet, .rst] = some (true, true, [.rst]) := by decide +kernel
/-- RST between two transfers, and while the second one is outstanding. -/
theorem test_rst_within_encFilter : sentBy (exec .encFilter (ready [.done true, .rst])) = [beginBytes] ∧
    sentBy (exec .encFilter (ready [.done true, .quiet, .rst])) = [beginBytes, bulk [0, 0, 0, 0]] := by decide
/-- A word of the opcode table is decoded and runs as the first request after reset. -/
theorem test_withFetchWord : decodeTableWord 16 0x0114 = some (.encRamlen 1) ∧
    sentBy (step (State.reset.withFetchWord 16 0x0114)) = [beginBytes] := by decide +kernel

/-! ## Witnesses: for each statement with hypotheses, a state and operands that meet them together -/

/-- ENC_FILTER waiting for its BEGIN, with a request on the port. -/
def waiting (ps : List Pin) : State :=
  { State.reset with
    busy := true
    op := 0x17
    xferValid := true
    xfer := beginBytes
    sent := [beginBytes]
    reqs := [⟨0x3E, []⟩]
    pins := ps
    work := deviceCommand params (setFilter params) .none }

theorem waiting_inv (ps : List Pin) : StateInv (waiting ps) where
  seqHeld := Nat.zero_le 9
  workHeld := rfl
  seqEnds := rfl
  seqOfApply := fun h => h.elim (fun h => absurd rfl h) nofun
  idle := nofun
  waiting := fun _ => ⟨rfl, rfl, rfl, _, _, _, rfl⟩
  codeHeld := Nat.zero_le 9
  noFault := fun _ => rfl
  faultSeq := ⟨Nat.zero_le 9, fun h => absurd rfl h⟩
  ibufWf := rfl
  obufWf := rfl
  cfgHeld := .inl rfl

/-- P3's end: TP_RANGE, with a request on the port. -/
def broken (r : Request) : State := { ready [] with fault := ⟨8, 0x34, 0, 0, 0xFFFE⟩, reqs := [r] }

theorem broken_code : (8 : BitVec 4) ≠ 0 := by decide

theorem broken_inv (r : Request) : StateInv (broken r) where
  seqHeld := Nat.zero_le 9
  workHeld := rfl
  seqEnds := rfl
  seqOfApply := fun h => h.elim (fun h => absurd rfl h) nofun
  idle := fun _ => ⟨rfl, rfl, rfl⟩
  waiting := nofun
  codeHeld := Nat.le_succ 8
  noFault := fun h => absurd h broken_code
  faultSeq := ⟨Nat.zero_le 9, fun h => absurd rfl h⟩
  ibufWf := rfl
  obufWf := rfl
  cfgHeld := .inl rfl

theorem witness_StepKeepsInvariant : ∃ t, StateInv (waiting twice) ∧ step (waiting twice) = .next t :=
  ⟨_, waiting_inv _, rfl⟩
theorem witness_ResetOperationResets : reading (ready []).pins = .clear [] := rfl
theorem witness_RstResetsAtAnyTime : (waiting [.late true, .rst]).busy = true ∧
    arrival (waiting [.late true, .rst]).pins = .rst [] ∧ (ready [.rst]).busy = false ∧
    reading (ready [.rst]).pins = .rst [] := ⟨rfl, rfl, rfl, rfl⟩
theorem witness_RstResetsAtAnyTime_during : (broken ⟨0x3E, []⟩).busy = false ∧
    reading [.quiet, .rst] = .clear [.rst] ∧ reading [.rst] = .rst [] ∧ (broken ⟨0x3E, []⟩).reqs = [⟨0x3E, []⟩] ∧
    ∀ op, decode ⟨0x3E, []⟩ ≠ .error (.malformedRecord op) := ⟨rfl, rfl, rfl, rfl, nofun⟩
theorem witness_StepRunsDecodedRequest_next : reading (ready []).pins = .clear [] ∧ (ready []).busy = false ∧
    decode ⟨0x14, [2]⟩ = .ok (.encRamlen 2) ∧ (ready []).fault.code = 0 := ⟨rfl, rfl, rfl, rfl⟩
theorem witness_StepRunsDecodedRequest_reset : reading (broken ⟨0x3F, []⟩).pins = .clear [] ∧
    (broken ⟨0x3F, []⟩).busy = false ∧ (broken ⟨0x3F, []⟩).reqs = [⟨0x3F, []⟩] ∧ decode ⟨0x3F, []⟩ = .ok .reset :=
  ⟨rfl, rfl, rfl, rfl⟩
theorem witness_StepRunsDecodedRequest_idle : reading State.reset.pins = .clear [] ∧ State.reset.busy = false ∧
    State.reset.reqs = [] := ⟨rfl, rfl, rfl⟩
/-- A completion that completes nothing comes before RST: the idle block drops it. -/
theorem witness_StepRunsDecodedRequest_stray : reading [.done true, .rst] = .clear [.done true, .rst] ∧
    withoutStray [.done true, .rst] = [.rst] ∧
    step { State.reset with pins := [.done true, .rst] } = .next { State.reset with pins := [.rst] } :=
  ⟨rfl, rfl, rfl⟩
theorem witness_StepRunsDecodedRequest_busy : (∀ ps, arrival (waiting []).pins ≠ .rst ps) ∧ (waiting []).busy = true :=
  ⟨nofun, rfl⟩
theorem witness_FaultedBlockRefuses : (broken ⟨0x3E, []⟩).busy = false ∧ reading (broken ⟨0x3E, []⟩).pins = .clear [] ∧
    reading [] = .clear [] ∧ (broken ⟨0x3E, []⟩).fault.code ≠ 0 ∧ (broken ⟨0x3E, []⟩).reqs = [⟨0x3E, []⟩] ∧
    (0x3E : Byte) ≠ 0x3F := ⟨rfl, rfl, rfl, by decide, rfl, by decide⟩
theorem witness_OnlyResetLeavesFault : ∃ t, StateInv (broken ⟨0x3E, []⟩) ∧ (broken ⟨0x3E, []⟩).fault.code ≠ 0 ∧
    step (broken ⟨0x3E, []⟩) = .next t ∧ reading (broken ⟨0x3E, []⟩).pins = .clear [] ∧ reading [] = .clear [] ∧
    (∀ r rs, (broken ⟨0x3E, []⟩).reqs = r :: rs → r.opsel ≠ 0x3F) :=
  ⟨_, broken_inv _, by decide, rfl, rfl, rfl, fun r rs h => by cases h; decide⟩
theorem witness_BusyBlockHoldsRequests : ∃ t, (waiting twice).busy = true ∧ step (waiting twice) = .next t ∧
    (waiting twice).reqs ≠ [] := ⟨_, rfl, rfl, by decide⟩
theorem witness_WaitsForTheTransport : StateInv (waiting []) ∧ (waiting []).busy = true ∧
    arrival (waiting []).pins = .nothing := ⟨waiting_inv _, rfl, rfl⟩
theorem witness_LateCompletionIgnored : StateInv (waiting []) ∧ (waiting []).busy = true ∧ arrival twice ≠ .nothing ∧
    (ready []).busy = false := ⟨waiting_inv _, rfl, by decide, rfl⟩
theorem witness_RstAbandonsOperation_start : reading (ready [.late true, .rst]).pins = .rst [] := rfl
theorem witness_RstAbandonsOperation : ∃ t, exec .encFilter (ready [.done true]) = .next t ∧ t.busy = true ∧
    arrival [.rst] = .rst [] ∧ reading [.rst] = .rst [] := ⟨_, rfl, rfl, rfl, rfl⟩
theorem witness_ReservedOpselFaults : reading State.reset.pins = .clear [] ∧ reading [] = .clear [] ∧ State.reset.busy = false ∧
    State.reset.fault.code = 0 ∧
    [0x00, 0x19, 0x25, 0x40, 0xFF].all (fun b : Byte => b.toNat ∉ [0x01, 0x02, 0x10, 0x11, 0x12, 0x13, 0x14, 0x15, 0x16,
      0x17, 0x18, 0x1F, 0x20, 0x21, 0x22, 0x23, 0x24, 0x28, 0x30, 0x31, 0x32, 0x33, 0x34, 0x3E, 0x3F]) = true :=
  ⟨rfl, rfl, rfl, rfl, by decide⟩
theorem witness_PseudoOperations : fitsQ e2eConfig.ch0.offset ∧ fitsQ e2eConfig.ch1.offset ∧
    fitsQ e2eConfig.trigger.offset ∧ fitsQ e2eConfig.timeBase.val ∧ fitsQ e2eConfig.triggerAddress := by
  unfold fitsQ
  decide +kernel
theorem witness_PseudoOperations_bounds : fitsQ (-2 ^ 63) ∧ fitsQ (2 ^ 63 - 1) ∧ fitsQ (1 / (2 ^ 64 - 1)) ∧
    ¬ fitsQ (2 ^ 63) := by
  unfold fitsQ
  decide +kernel
theorem witness_CalLoadTwice : reading (ready []).pins = .clear [] := rfl
theorem witness_GetConfigReturnsConfiguration : reading (ready []).pins = .clear [] := rfl
theorem witness_BuildStoppedFrameWrites : reading (ready []).pins = .clear [] := rfl
theorem witness_TransportTimingIrrelevant_waits : ∃ t, exec .encFilter (ready [.done true]) = .next t ∧ t.busy = true :=
  ⟨_, rfl, rfl⟩
theorem witness_TransportTimingIrrelevant_ends : ∃ t, exec .encFilter (ready twice) = .next t ∧ t.busy = false :=
  ⟨_, rfl, rfl⟩
theorem witness_DecodeOfEncode : (Instr.unwrap 0 2 [1, 2]).wellFormed = true ∧ (Instr.apply e2e).wellFormed = true :=
  ⟨rfl, rfl⟩
theorem witness_EncodeOfDecode : decode ⟨0x1F, e2eBytes⟩ = .ok (.apply e2e) := test_decode_apply
theorem witness_RationalOperands : reading (ready []).pins = .clear [] ∧
    (⟨1, 0⟩ : QOperand).den = 0 ∧ half.den ≠ 0 ∧ (⟨2, 4⟩ : QOperand).den ≠ 0 ∧
    qVal half = qVal ⟨2, 4⟩ ∧ half ≠ ⟨2, 4⟩ := by decide +kernel
theorem witness_CalLoadReplacesFile : reading (ready []).pins = .clear [] ∧
    (68 : Fin 72).val = 4 * (9 * Channel.ch2.code.toNat + Range.mv10.code.toNat) ∧
    (0 : Fin 72).val = 4 * (9 * Channel.ch1.code.toNat + Range.v5.code.toNat) := by decide
theorem witness_FirstBadFieldReported : reading (ready []).pins = .clear [] ∧
    firstBad (operandFields (.calLookup 2 9)) = some 0 ∧
    firstBad (operandFields (.apply { e2e with ta := ⟨1, 0⟩ })) = some 72 := by decide +kernel
theorem witness_GoodOperandsNeverBadOperand : ∃ t, operandsGood (.calLookup 1 8) ∧
    exec (.calLookup 1 8) { ready [] with fault := ⟨3, 0x02, 0, 0, 1⟩ } = .next t ∧ t.fault.code = 3 :=
  ⟨_, rfl, rfl, rfl⟩
theorem witness_ChecksPrecedeEveryEffect : ∃ t, State.reset.fault.code = 0 ∧ exec (.calLookup 0 0) State.reset = .next t ∧
    2 ≤ t.fault.code.toNat := ⟨_, rfl, rfl, by decide⟩
theorem witness_WellFormedNeverStops : (Instr.assembleFrame 3 2 [5, 6]).wellFormed = true := rfl
theorem witness_RegisterWriters : ∃ t, exec .encFilter (ready twice) = .next t ∧ Pin.rst ∉ (ready twice).pins ∧
    Instr.encFilter ≠ .reset ∧ (∀ lv, Instr.encFilter ≠ .calLoad lv) ∧ (∀ a b c d e, Instr.encFilter ≠ .encRelays a b c d e) ∧
    (∀ q, Instr.encFilter ≠ .quantSamplerate q) ∧ (∀ c, Instr.encFilter ≠ .apply c) :=
  ⟨_, rfl, by decide, nofun, nofun, nofun, nofun, nofun⟩
theorem witness_BufferWriters : ∃ t, exec .encFilter (ready twice) = .next t ∧ Pin.rst ∉ (ready twice).pins ∧
    Instr.encFilter ≠ .reset ∧ (∀ tp l b, Instr.encFilter ≠ .unwrap tp l b) ∧
    (∀ p l b, Instr.encFilter ≠ .assembleFrame p l b) ∧ Instr.encFilter ≠ .buildDataHeader ∧
    Instr.encFilter ≠ .buildStoppedFrame := ⟨_, rfl, by decide, nofun, nofun, nofun, nofun, nofun⟩
theorem witness_TransferStreamForm : ∃ t, exec .encFilter (ready twice) = .next t ∧ t.sent = [beginBytes, bulk [0, 0, 0, 0]] :=
  ⟨_, rfl, rfl⟩
theorem witness_CalLookupReturnsPair : reading (ready []).pins = .clear [] ∧
    (ready []).calValid = true ∧ State.reset.calValid = false ∧ 1 < (2 : Byte).toNat ∧
    (1 : Byte).toNat ≤ 1 ∧ 8 < (9 : Byte).toNat := by decide
/-- What the transport answers in the clauses of every device command. -/
theorem witness_isDeviceCommand : answers [true, true] (ready twice).pins [] ∧ answers [false] (ready [.done false]).pins [] ∧
    answers [true, false] (ready [.done true, .late true, .done false]).pins [] ∧ reading (ready []).pins = .clear [] ∧
    arrival [] = .nothing :=
  ⟨⟨_, rfl, _, rfl, _, rfl, rfl⟩, ⟨_, rfl, _, rfl, rfl⟩, ⟨_, rfl, _, rfl, _, rfl, rfl⟩, rfl, rfl⟩
theorem witness_EncVoltageCommand : reading (ready []).pins = .clear [] ∧
    operandsGood (.encVoltage 8 2 8 2) ∧
    firstBad (operandFields (.encVoltage 9 0 0 0)) = some 0 ∧ firstBad (operandFields (.encVoltage 8 2 8 3)) = some 3 := by
  unfold operandsGood
  decide
theorem witness_EncTriginCommand : reading (ready []).pins = .clear [] ∧
    operandsGood (.encTrigin 3 1) ∧ firstBad (operandFields (.encTrigin 4 0)) = some 0 ∧
    firstBad (operandFields (.encTrigin 3 2)) = some 1 := by
  unfold operandsGood
  decide
theorem witness_EncChannelsCommand : reading (ready []).pins = .clear [] ∧
    operandsGood (.encChannels 2) ∧ firstBad (operandFields (.encChannels 3)) = some 0 := by
  unfold operandsGood
  decide
theorem witness_EncRamlenCommand : reading (ready []).pins = .clear [] ∧
    operandsGood (.encRamlen 1) ∧ operandsGood (.encRamlen 2) ∧
    firstBad (operandFields (.encRamlen 0)) = some 0 ∧ firstBad (operandFields (.encRamlen 3)) = some 0 := by
  unfold operandsGood
  decide
theorem witness_EncFilterCommand : answers [true, true] (ready twice).pins [] := witness_isDeviceCommand.1
theorem witness_CaptureCommands : answers [true, false] (ready [.done true, .late true, .done false]).pins [] :=
  witness_isDeviceCommand.2.2.1
theorem witness_QuantSampleratePrograms : reading (ready []).pins = .clear [] ∧
    (⟨1, 0⟩ : QOperand).den = 0 ∧ (⟨400001, 1000000000⟩ : QOperand).den ≠ 0 ∧
    400 / 10 ^ 6 < qVal ⟨400001, 1000000000⟩ ∧ (⟨400, 1000000⟩ : QOperand).den ≠ 0 ∧
    qVal ⟨400, 1000000⟩ ≤ 400 / 10 ^ 6 := by decide +kernel
theorem witness_QuantSampleratePrograms_answers : answers [true, true] (ready twice).pins [] ∧
    answers [false] (ready [.done false]).pins [] ∧
    answers [true, false] (ready [.done true, .late true, .done false]).pins [] :=
  ⟨witness_isDeviceCommand.1, witness_isDeviceCommand.2.1, witness_isDeviceCommand.2.2.1⟩
theorem witness_EncRelaysSuppression_same : reading (ready []).pins = .clear [] ∧
    operandsGood (.encRelays 2 1 2 1 0) ∧ ∃ s : State, s.relayValid = true ∧
    s.relayShadow = maskBytes 2 1 2 1 0 :=
  ⟨rfl, rfl, { ready [] with relayValid := true, relayShadow := maskBytes 2 1 2 1 0 }, rfl, rfl⟩
theorem witness_EncRelaysSuppression_sent : operandsGood (.encRelays 8 2 8 2 3) ∧
    ¬ ((ready twice).relayValid = true ∧ (ready twice).relayShadow = maskBytes 8 2 8 2 3) ∧
    answers [true] (ready twice).pins [.done true] ∧ answers [false] (ready [.done false]).pins [] :=
  ⟨rfl, by decide, ⟨_, rfl, _, rfl, rfl⟩, ⟨_, rfl, _, rfl, rfl⟩⟩
theorem witness_RelaysIssuedOnce : ∃ t, exec (.encRelays 2 1 2 1 0) (ready twice) = .next t ∧ t.resValid = true ∧
    t.resKind = .ok ∧ reading t.pins = .clear [.done true] := ⟨_, rfl, rfl, rfl, rfl⟩
theorem witness_EncTriglenCommand : reading (ready []).pins = .clear [] ∧
    operandsGood (.encTriglen 2 half) ∧
    firstBad (operandFields (.encTriglen 0 half)) = some 0 ∧ firstBad (operandFields (.encTriglen 1 ⟨1, 0⟩)) = some 1 := by
  unfold operandsGood
  decide
theorem witness_TriggerAddressClamped : (⟨-5, 1⟩ : QOperand).den ≠ 0 ∧ half.den ≠ 0 ∧
    max 1 (min 98 (qVal ⟨-5, 1⟩)) = max 1 (min 98 (qVal half)) := by decide +kernel
theorem witness_ChannelValueCalibrated : (0 : Rat) ≤ 1 / 2 ∧ (1 / 2 : Rat) ≤ 1 ∧ (0 : Rat) ≤ 1 := by decide +kernel
theorem witness_TriggerValueClamped : (TrigSource.ch2 = .ch1 ∨ TrigSource.ch2 = .ch2) ∧ (-1 / 10 : Rat) ≤ 0 ∧ (1 : Rat) ≤ 5 ∧
    (0 : Rat) ≤ 1 ∧ (1 : Rat) ≤ 1 := by decide +kernel
theorem witness_EncOffsetsTransfer : reading (ready []).pins = .clear [] ∧
    firstBad (operandFields (.encOffsets 2 half 2 half 4 ⟨1, 0⟩)) = some 34 ∧
    firstBad (operandFields (.encOffsets 2 half 2 half 3 ⟨1, 0⟩)) = some 35 ∧ half.den ≠ 0 ∧ qVal ⟨-1, 10⟩ < 0 ∧ 1 < qVal ⟨3, 2⟩ ∧ 0 ≤ qVal ⟨0, 1⟩ ∧
    qVal ⟨1, 1⟩ ≤ 1 ∧ State.reset.calValid = false ∧ (ready []).calValid = true := by decide +kernel
theorem witness_EncOffsetsTransfer_answers : answers [true] (ready twice).pins [.done true] ∧
    answers [false] (ready [.done false]).pins [] := ⟨⟨_, rfl, _, rfl, rfl⟩, ⟨_, rfl, _, rfl, rfl⟩⟩
theorem witness_ApplyValidation : reading (ready []).pins = .clear [] ∧
    firstBad (operandFields (.apply { e2e with tb := ⟨0, 1⟩ })) = some 56 ∧
    operandsGood (.apply e2e) ∧ qVal ⟨-1, 10⟩ < 0 ∧ 1 < qVal ⟨3, 2⟩ ∧ 0 ≤ qVal e2e.off0 ∧ qVal e2e.off0 ≤ 1 ∧
    State.reset.calValid = false ∧ (ready []).calValid = true := by
  unfold operandsGood
  decide +kernel
theorem e2e_denotes : denotes e2e e2eConfig := by
  unfold denotes
  decide +kernel
theorem e2e_applicable (ps : List Pin) : applicable e2e e2eConfig (ready ps) :=
  ⟨by unfold operandsGood; decide +kernel, e2e_denotes, by decide +kernel, by decide +kernel, by decide +kernel,
    by decide +kernel, rfl⟩
theorem replicate_answers (n : Nat) (bs : List Bool) (ps qs : List Pin) (h : answers bs ps qs) :
    answers (List.replicate n true ++ bs) (List.replicate n (.done true) ++ ps) qs := by
  induction n with
  | zero => exact h
  | succ n ih =>
    obtain ⟨r, hr, h⟩ := ih
    exact ⟨_, rfl, r, arrival_done_clear hr, h⟩
theorem witness_ApplyCompletes : applicable e2e e2eConfig (ready (List.replicate 16 (.done true))) ∧
    answers (List.replicate (applyCount (needsRelays (ready []) e2eConfig)) true)
      (ready (List.replicate 16 (.done true))).pins [] :=
  ⟨e2e_applicable _, replicate_answers 16 [] [] [] ⟨_, rfl, rfl⟩⟩
/-- The first and the last of the sixteen transfers fail. -/
theorem witness_ApplyDoesNotRollBack : applicable e2e e2eConfig (ready [.done false]) ∧
    applicable e2e e2eConfig (ready (List.replicate 15 (.done true) ++ [.done false])) ∧
    15 < applyCount (needsRelays (ready []) e2eConfig) ∧ answers [false] (ready [.done false]).pins [] ∧
    answers (List.replicate 15 true ++ [false]) (ready (List.replicate 15 (.done true) ++ [.done false])).pins [] :=
  ⟨e2e_applicable _, e2e_applicable _, by decide, ⟨_, rfl, _, rfl, rfl⟩, replicate_answers 15 [false] _ _ ⟨_, rfl, _, rfl, rfl⟩⟩
theorem witness_ApplyTwice : applicable e2e e2eConfig (ready (List.replicate 31 (.done true))) ∧
    needsRelays (ready (List.replicate 31 (.done true))) e2eConfig = true ∧
    answers (List.replicate 16 true) (ready (List.replicate 31 (.done true))).pins (List.replicate 15 (.done true)) ∧
    answers (List.replicate 15 true) (List.replicate 15 (.done true)) [] :=
  ⟨e2e_applicable _, by decide, replicate_answers 16 [] _ _ ⟨_, rfl, rfl⟩, replicate_answers 15 [] [] [] ⟨_, rfl, rfl⟩⟩
theorem witness_DecodeCapstateResult : reading (ready []).pins = .clear [] ∧
    (0 : Word).toNat = 0 ∧ (1 : Word).toNat = 1 ∧ (3 : Word).toNat = 3 ∧
    (2 : Word).toNat ≠ 0 ∧ (2 : Word).toNat ≠ 1 ∧ (2 : Word).toNat ≠ 3 := by decide
theorem witness_DecodeTpResult : reading (ready []).pins = .clear [] ∧
    (0x3FFFF : Word).toNat < 2 ^ 18 ∧ 2 ^ 18 ≤ (0x40000 : Word).toNat ∧ 15 < 16 := by
  decide +kernel
theorem witness_PointerTransformIsGrayDecode : tpTransform ((0x0002 : HalfWord).setWidth 32) = 0x0003 := by decide +kernel
/-- A block of the size that UNWRAP and ASSEMBLE_FRAME take. -/
def wholeBlock : List Byte := List.replicate 20480 0
theorem wholeBlock_length : wholeBlock.length = 20480 := List.length_replicate
theorem witness_UnwrapRotatesBlock : reading (ready []).pins = .clear [] ∧
    (20479 : Word).toNat ≠ 20480 ∧ (20480 : Word).toNat = 20480 ∧
    10240 ≤ (10240 : HalfWord).toNat ∧ (10239 : HalfWord).toNat < 10240 ∧ wholeBlock.length = 20480 :=
  ⟨rfl, by decide +kernel, by decide +kernel, by decide +kernel, by decide +kernel, wholeBlock_length⟩
theorem witness_RotationIsBijection : 10239 < 10240 ∧ wholeBlock.length = 20480 := ⟨by decide +kernel, wholeBlock_length⟩
theorem witness_BuildDataHeaderWrites : reading (ready []).pins = .clear [] ∧
    State.reset.sampleTValid = false ∧ (ready []).sampleTValid = true := by decide
theorem witness_BinaryRoundsToNearestEven : (0 : Rat) < 1 / 2 ^ 150 ∧ (1 / 2 ^ 150 : Rat) < 2 ^ 128 - 2 ^ 103 ∧
    (0 : Rat) < 2 ^ 128 - 2 ^ 104 ∧ (2 ^ 128 - 2 ^ 104 : Rat) < 2 ^ 128 - 2 ^ 103 := by decide +kernel
theorem witness_AssembleFrameWrites : reading (ready []).pins = .clear [] ∧
    2 ^ 18 ≤ (0x40000 : Word).toNat ∧ (0x3400 : Word).toNat < 2 ^ 18 ∧
    (20479 : Word).toNat ≠ 20480 ∧ (20480 : Word).toNat = 20480 ∧ 10240 ≤ (tpTransform 0x3C00).toNat ∧
    (tpTransform 0x3400).toNat < 10240 ∧ State.reset.sampleTValid = false ∧ (ready []).sampleTValid = true ∧
    wholeBlock.length = 20480 :=
  ⟨rfl, by decide +kernel, by decide +kernel, by decide +kernel, by decide +kernel, by decide +kernel, by decide +kernel, rfl, rfl,
    wholeBlock_length⟩

end Sys2Proof.Tests
end

section
/-! PROOF. f32 rounds to the nearest binary32 pattern (spec/00_scope.md R14). The patterns of one exponent are a
window of equal steps, in which f32 rounds the scaled quotient; a pattern outside the window is farther off than
the window's end, since values rise with the pattern. -/

namespace Sys2Proof.Machine

/-! ## The exponent field and the significand that f32 chooses -/

/-- How many binades the exponent that f32 chooses for `n / d` lies above the least one, 2^-126. -/
def f32Binade (n d : Nat) : Nat := (max (binaryExponent n d) (-126) + 126).toNat

/-- The significand that f32 rounds `n / d` to, in units of the last place. -/
def f32Significand (n d : Nat) : Nat :=
  let e := max (binaryExponent n d) (-126)
  divNearestEven (n * 2 ^ (23 - e).toNat) (d * 2 ^ (e - 23).toNat)

/-- The pattern of `n / d`, were the exponents unbounded above. -/
def roundedPattern (n d : Nat) : Nat := f32Binade n d * 2 ^ 23 + f32Significand n d

theorem f32Magnitude_eq (n d : Nat) : f32Magnitude n d = min (roundedPattern n d) 0x7F800000 := rfl

theorem f32Binade_cast (n d : Nat) : (f32Binade n d : Int) = max (binaryExponent n d) (-126) + 126 :=
  Int.toNat_of_nonneg (by omega)

/-- `n / d` in units of the last place of its binade. -/
def scaledQuotient (n d : Nat) : Rat := n / d * 2 ^ 149 / 2 ^ f32Binade n d

theorem scaledQuotient_unscaled (n d : Nat) :
    (n : Rat) / d = scaledQuotient n d * 2 ^ f32Binade n d / 2 ^ 149 := by
  simp [scaledQuotient]

theorem two_zpow_add_binade (k E : Nat) : (2 : Rat) ^ (k + E - 149 : Int) = 2 ^ k * 2 ^ E / 2 ^ 149 := by
  rw [zpow_sub₀ two_ne_zero, zpow_add₀ two_ne_zero]
  norm_cast

theorem scaledQuotient_lt (n d : Nat) (hn : 0 < n) (hd : 0 < d) : scaledQuotient n d < 2 ^ 24 := by
  have hE := f32Binade_cast n d
  have below : (n : Rat) / d < 2 ^ ((24 : Nat) + f32Binade n d - 149 : Int) :=
    (binaryExponent_bounds hn hd).2.trans_le (zpow_le_zpow_right₀ one_le_two (by omega))
  rw [two_zpow_add_binade, lt_div_iff₀ (by positivity)] at below
  rwa [scaledQuotient, div_lt_iff₀ (by positivity)]

/-- Only the least binade has quotients below its first normal significand. -/
theorem le_scaledQuotient (n d : Nat) (hn : 0 < n) (hd : 0 < d) :
    f32Binade n d = 0 ∨ 2 ^ 23 ≤ scaledQuotient n d := by
  have hE := f32Binade_cast n d
  refine or_iff_not_imp_left.2 fun hpos => ?_
  have above : (2 : Rat) ^ ((23 : Nat) + f32Binade n d - 149 : Int) ≤ n / d :=
    (zpow_le_zpow_right₀ one_le_two (by omega)).trans (binaryExponent_bounds hn hd).1
  rw [two_zpow_add_binade, div_le_iff₀ (by positivity)] at above
  rwa [scaledQuotient, le_div_iff₀ (by positivity)]

theorem scaledQuotient_eq_div (n d : Nat) :
    scaledQuotient n d = (n * 2 ^ (23 - max (binaryExponent n d) (-126)).toNat : Nat) /
      (d * 2 ^ (max (binaryExponent n d) (-126) - 23).toNat : Nat) := by
  have hE := f32Binade_cast n d
  rw [scaledQuotient]
  generalize max (binaryExponent n d) (-126) = e at *
  have shift : (2 : Rat) ^ (23 - e) = 2 ^ 149 / 2 ^ f32Binade n d := by
    rw [show 23 - e = (149 : Int) - f32Binade n d by omega, zpow_sub₀ two_ne_zero, zpow_natCast]
    norm_num
  have hpow := two_zpow_toNat (23 - e)
  rw [neg_sub, shift] at hpow
  push_cast
  rw [hpow]
  field_simp

theorem f32Significand_nearest (n d : Nat) (hd : 0 < d) (k : Nat) (hk : k ≠ f32Significand n d) :
    |scaledQuotient n d - f32Significand n d| < |scaledQuotient n d - k| ∨
      (|scaledQuotient n d - f32Significand n d| = |scaledQuotient n d - k| ∧ f32Significand n d % 2 = 0) := by
  rw [scaledQuotient_eq_div]
  exact divNearestEven_nearest (by positivity) k hk

/-- The chosen significand is at least as near as any other. -/
theorem f32Significand_le (n d : Nat) (hd : 0 < d) (k : Nat) :
    |scaledQuotient n d - f32Significand n d| ≤ |scaledQuotient n d - k| := by
  by_cases hk : k = f32Significand n d
  · rw [hk]
  · exact (f32Significand_nearest n d hd k hk).elim le_of_lt fun tie => tie.1.le

/-! ## The window of one exponent -/

/-- The significands that a pattern of binade `E` can hold, its upper end being the next binade's first. -/
def inWindow (E k : Nat) : Prop := k ≤ 2 ^ 24 ∧ (E = 0 ∨ 2 ^ 23 ≤ k)

/-- Rounding to nearest does not pass a whole number. -/
theorem f32Significand_inWindow (n d : Nat) (hn : 0 < n) (hd : 0 < d) :
    inWindow (f32Binade n d) (f32Significand n d) := by
  constructor
  · by_contra! above
    have hx := scaledQuotient_lt n d hn hd
    have hm : (2 ^ 24 : Rat) < f32Significand n d := by exact_mod_cast above
    have near := f32Significand_le n d hd (2 ^ 24)
    push_cast at near
    rw [abs_of_neg (by linarith), abs_of_neg (by linarith)] at near
    linarith
  · refine (le_scaledQuotient n d hn hd).imp_right fun hx => ?_
    by_contra! below
    have hm : (f32Significand n d : Rat) < 2 ^ 23 := by exact_mod_cast below
    have near := f32Significand_le n d hd (2 ^ 23)
    push_cast at near
    rw [abs_of_pos (by linarith), abs_of_nonneg (by linarith)] at near
    linarith

/-- In the window the distance to `n / d` is the distance of significands, scaled. -/
theorem distance_scaled (n d k : Nat) (hk : inWindow (f32Binade n d) k) :
    |(n : Rat) / d - patternValue (f32Binade n d * 2 ^ 23 + k)| =
      |scaledQuotient n d - k| * (2 ^ f32Binade n d / 2 ^ 149) := by
  rw [patternValue_scaled _ _ hk.1 hk.2, scaledQuotient_unscaled n d, ← sub_div, ← sub_mul, mul_div_assoc, abs_mul,
    abs_of_pos (by positivity : (0 : Rat) < 2 ^ f32Binade n d / 2 ^ 149)]

/-! ## Patterns outside the window -/

theorem distance_lt_above {q : Rat} {a p : Nat} (hq : q ≤ patternValue a) (h : a < p) :
    |q - patternValue a| < |q - patternValue p| := by
  have hv := patternValue_strictMono h
  rw [abs_of_nonpos (by linarith), abs_of_nonpos (by linarith)]
  linarith

theorem distance_lt_below {q : Rat} {a p : Nat} (hq : patternValue a ≤ q) (h : p < a) :
    |q - patternValue a| < |q - patternValue p| := by
  have hv := patternValue_strictMono h
  rw [abs_of_nonneg (by linarith), abs_of_nonneg (by linarith)]
  linarith

/-- A pattern outside the window is farther from `n / d` than one of the window's ends. -/
theorem exists_nearer_in_window (n d : Nat) (hn : 0 < n) (hd : 0 < d) (p : Nat)
    (hp : ∀ k, inWindow (f32Binade n d) k → p ≠ f32Binade n d * 2 ^ 23 + k) :
    ∃ k, inWindow (f32Binade n d) k ∧
      |(n : Rat) / d - patternValue (f32Binade n d * 2 ^ 23 + k)| < |(n : Rat) / d - patternValue p| := by
  rcases Nat.lt_or_ge (f32Binade n d * 2 ^ 23 + 2 ^ 24) p with above | notAbove
  · have top : inWindow (f32Binade n d) (2 ^ 24) := ⟨le_rfl, .inr (by norm_num)⟩
    refine ⟨2 ^ 24, top, distance_lt_above ?_ above⟩
    rw [patternValue_scaled _ _ top.1 top.2, scaledQuotient_unscaled n d]
    have hx := (scaledQuotient_lt n d hn hd).le
    gcongr
    exact_mod_cast hx
  · have notIn : ¬ (f32Binade n d * 2 ^ 23 ≤ p ∧ (f32Binade n d = 0 ∨ 2 ^ 23 ≤ p - f32Binade n d * 2 ^ 23)) :=
      fun ⟨hle, hlow⟩ => hp (p - f32Binade n d * 2 ^ 23) ⟨by omega, hlow⟩ (by omega)
    have bottom : inWindow (f32Binade n d) (2 ^ 23) := ⟨by norm_num, .inr le_rfl⟩
    refine ⟨2 ^ 23, bottom, distance_lt_below ?_ (by omega)⟩
    rw [patternValue_scaled _ _ bottom.1 bottom.2, scaledQuotient_unscaled n d]
    have hx := (le_scaledQuotient n d hn hd).resolve_left (by omega)
    gcongr
    exact_mod_cast hx

/-! ## The nearest pattern -/

/-- No pattern, finite or not, has a nearer value than the unbounded rounding of `n / d`. -/
theorem rounded_nearest (n d : Nat) (hn : 0 < n) (hd : 0 < d) (p : Nat) (hp : p ≠ roundedPattern n d) :
    |(n : Rat) / d - patternValue (roundedPattern n d)| < |(n : Rat) / d - patternValue p| ∨
      (|(n : Rat) / d - patternValue (roundedPattern n d)| = |(n : Rat) / d - patternValue p| ∧
        roundedPattern n d % 2 = 0) := by
  rw [roundedPattern] at *
  have chosen := f32Significand_inWindow n d hn hd
  have unit : (0 : Rat) < 2 ^ f32Binade n d / 2 ^ 149 := by positivity
  by_cases inside : ∃ k, inWindow (f32Binade n d) k ∧ p = f32Binade n d * 2 ^ 23 + k
  · obtain ⟨k, hk, rfl⟩ := inside
    rw [distance_scaled n d _ chosen, distance_scaled n d k hk]
    rcases f32Significand_nearest n d hd k (by omega) with nearer | ⟨tie, even⟩
    · exact .inl (mul_lt_mul_of_pos_right nearer unit)
    · exact .inr ⟨by rw [tie], by omega⟩
  · obtain ⟨k, hk, farther⟩ := exists_nearer_in_window n d hn hd p fun k hk h => inside ⟨k, hk, h⟩
    refine .inl (lt_of_le_of_lt ?_ farther)
    rw [distance_scaled n d _ chosen, distance_scaled n d k hk]
    exact mul_le_mul_of_nonneg_right (f32Significand_le n d hd k) unit.le

theorem patternValue_infinity : patternValue 0x7F800000 = 2 ^ 128 := by
  unfold patternValue
  norm_num

theorem patternValue_greatestFinite : patternValue 0x7F7FFFFF = 2 ^ 128 - 2 ^ 104 := by
  unfold patternValue
  norm_num

theorem greatestFinite_nearer {q v : Rat} (hq : q < 2 ^ 128 - 2 ^ 103) (hv : 2 ^ 128 ≤ v) :
    |q - (2 ^ 128 - 2 ^ 104)| < |q - v| := by
  norm_num at hq hv ⊢
  rw [abs_of_neg (by linarith : q - v < 0), abs_lt]
  constructor <;> linarith

/-- Below the middle between the greatest finite value and 2^128 the rounding is finite: a pattern from
infinity's on would be farther off than the greatest finite one. -/
theorem rounded_finite (n d : Nat) (hn : 0 < n) (hd : 0 < d) (hlt : (n : Rat) / d < 2 ^ 128 - 2 ^ 103) :
    roundedPattern n d < 0x7F800000 := by
  by_contra! overflow
  have value := patternValue_strictMono.monotone overflow
  rw [patternValue_infinity] at value
  have farther := greatestFinite_nearer hlt value
  rw [← patternValue_greatestFinite] at farther
  rcases rounded_nearest n d hn hd 0x7F7FFFFF (by omega) with nearer | ⟨tie, _⟩
  · exact farther.asymm nearer
  · exact farther.ne' tie

theorem natAbs_div_den {q : Rat} (hq : 0 < q) : (q.num.natAbs : Rat) / q.den = q := by
  rw [Nat.cast_natAbs, abs_of_pos (Rat.num_pos.2 hq), Rat.num_div_den]

/-- The pattern of a positive rational below the overflow bound is its rounding, uncut. -/
theorem f32_toNat_of_pos {q : Rat} (hq : 0 < q) (hlt : q < 2 ^ 128 - 2 ^ 103) :
    (f32 q).toNat = roundedPattern q.num.natAbs q.den := by
  have hnum : 0 < q.num := Rat.num_pos.2 hq
  have finite := rounded_finite q.num.natAbs q.den (by omega) q.den_pos (by rwa [natAbs_div_den hq])
  simp only [f32, if_neg hnum.ne', if_neg hnum.not_gt, f32Magnitude_eq, min_eq_left finite.le, BitVec.toNat_ofNat]
  exact Nat.mod_eq_of_lt (by omega)

/-- Settles O57: f32 gives the rounding of `rounded_nearest`, which is finite by `rounded_finite`. -/
theorem binaryRoundsToNearestEven : Obligations.BinaryRoundsToNearestEven := by
  unfold Obligations.BinaryRoundsToNearestEven
  refine ⟨rfl, fun q hq hlt => ?_⟩
  have hn : 0 < q.num.natAbs := Int.natAbs_pos.2 (Rat.num_pos.2 hq).ne'
  rw [f32_toNat_of_pos hq hlt]
  have finite := rounded_finite q.num.natAbs q.den hn q.den_pos
  have nearest := rounded_nearest q.num.natAbs q.den hn q.den_pos
  rw [natAbs_div_den hq] at finite nearest
  exact ⟨finite hlt, fun p _ hp => nearest p hp⟩

end Sys2Proof.Machine
end

section
/-! PROOF. Reset, the handshake and RST (spec/10_state.md R35 to R40, spec/70_reset_and_hazards.md R235 to R238): what
a step can be, said once, and what RST leaves wherever it comes. -/

namespace Sys2Proof.Machine

/-! ## The reset state -/

/-- A reset puts every register that the spec names into its reset value (10_state.md R40). -/
theorem hasResetValues_resetRegs (s : State) : hasResetValues (resetRegs s) :=
  ⟨rfl, rfl, rfl, rfl, rfl, rfl, rfl, rfl, rfl, rfl, rfl, rfl⟩

/-- Settles O1: the reset state is its own reset. -/
theorem resetGivesSpecValues : Obligations.ResetGivesSpecValues :=
  ⟨hasResetValues_resetRegs State.reset, rfl⟩

/-- What can be seen of a reset: the reset values, no result, and nothing sent or taken from the port. -/
theorem abandoned_of_resetRegs {o : Host.Outcome State Fault Refusal} {s : State} {ps : List Pin}
    (h : o = .next (resetRegs { s with pins := ps })) :
    ∃ t, o = .next t ∧ hasResetValues t ∧ t.resValid = false ∧ t.sent = s.sent ∧ t.reqs = s.reqs ∧ t.pins = ps :=
  ⟨_, h, hasResetValues_resetRegs _, rfl, rfl, rfl, rfl⟩

/-! ## The request that is taken -/

/-- An instruction read from a whole record has the OPSEL of every instruction that the reader can give. -/
theorem opsel_of_wholeRecord {op k : Byte} {o : Option (Instr × List Byte)} {i : Instr}
    (h : wholeRecord op o = .ok i) (ho : ∀ p, o = some p → p.1.opsel = k) : i.opsel = k :=
  ho _ (wholeRecord_eq_ok h)

/-- A decoded request has the OPSEL of its instruction (30_encoding.md R62). -/
theorem opsel_of_decode {r : Request} {i : Instr} (h : decode r = .ok i) : i.opsel = r.opsel := by
  unfold decode at h
  split at h
  case h_26 => cases h
  all_goals
    rename_i hop
    refine opsel_of_wholeRecord h ?_
    simp only [Option.bind_eq_bind, Option.bind_eq_some_iff, Option.some.injEq, forall_exists_index, and_imp]
    intros
    subst_vars
    exact hop.symm

/-- RESET is the only operation of its OPSEL. -/
theorem eq_reset_of_opsel {i : Instr} (h : i.opsel = 0x3F) : i = .reset := by
  cases i
  case reset => rfl
  all_goals simp [Instr.opsel] at h

/-- All that an idle block can do with the request it takes: it refuses it in the fault state, raises ILLEGAL_OP,
has no meaning for a malformed record, or runs the instruction, in no fault state unless it is RESET. -/
inductive Taken (r : Request) (s : State) : Prop
  | refused (h : accept r s = .settled (unlessRst .next (fun t => .next (postFaulted t)) s))
  | illegal (op : Byte) (h : accept r s =
      .settled (unlessRst .next (fun t => .next (raise ⟨.illegalOp, op.setWidth 32⟩ t)) (startOp op s)))
  | malformed (op : Byte) (hd : decode r = .error (.malformedRecord op))
      (h : accept r s = .settled (.refused (.malformedRequest op)))
  | runs (i : Instr) (hd : decode r = .ok i) (hf : s.fault.code = 0 ∨ i = .reset) (h : accept r s = .instruction i s)

theorem accept_cases (r : Request) (s : State) : Taken r s := by
  by_cases hf : s.fault.code = 0 ∨ r.opsel = 0x3F
  · have ha := accept_taken hf
    cases hd : decode r with
    | ok i =>
      rw [hd] at ha
      exact .runs i hd (hf.imp_right fun h => eq_reset_of_opsel ((opsel_of_decode hd).trans h)) ha
    | error e =>
      rw [hd] at ha
      cases e with
      | reservedOpsel op => exact .illegal op ha
      | malformedRecord op => exact .malformed op hd ha
  · obtain ⟨hc, hr⟩ := not_or.1 hf
    exact .refused (accept_faulted hc hr)

/-! ## The step -/

theorem step_settled {s : State} {o : Host.Outcome State Fault Refusal} (h : fetch s = .settled o) : step s = o := by
  rw [step, h]

theorem step_instruction {s t : State} {i : Instr} (h : fetch s = .instruction i t) : step s = exec i t := by
  rw [step, h]

/-- An idle block without RST takes the request on its port. -/
theorem fetch_request {s : State} {ps : List Pin} {r : Request} {rs : List Request} (hb : s.busy = false)
    (hp : reading s.pins = .clear ps) (hq : s.reqs = r :: rs) :
    fetch s = accept r { s with reqs := rs, pins := ps } := by
  simp only [fetch_idle_clear hb hp, takeRequest, hq]

/-- An idle block without RST and without a request keeps its registers. -/
theorem step_no_request {s : State} {ps : List Pin} (hb : s.busy = false) (hp : reading s.pins = .clear ps)
    (hq : s.reqs = []) : step s = .next { s with pins := withoutStray ps } := by
  refine step_settled ?_
  simp only [fetch_idle_clear hb hp, takeRequest, hq]

theorem step_busy_rst {s : State} {ps : List Pin} (hb : s.busy = true) (ha : arrival s.pins = .rst ps) :
    step s = .next (resetRegs { s with pins := ps }) := step_settled (fetch_busy_rst hb ha)

theorem step_busy {s : State} (hb : s.busy = true) (ha : ∀ ps, arrival s.pins ≠ .rst ps) :
    step s = .next (resume s) := step_settled (fetch_busy ha hb)

theorem step_idle_rst {s : State} {ps : List Pin} (hb : s.busy = false) (hp : reading s.pins = .rst ps) :
    step s = .next (resetRegs { s with pins := ps }) := step_settled (fetch_idle_rst hb hp)

/-- Settles O6: a request in no fault state, or RESET, is decoded and run. -/
theorem stepRunsDecodedRequest : Obligations.StepRunsDecodedRequest := by
  refine ⟨fun s ps hb hp => ⟨fun r rs i hq hd hf => ?_, step_no_request hb hp⟩, fun s => step_busy⟩
  have hop : s.fault.code = 0 ∨ r.opsel = 0x3F := hf.imp_right fun h => by rw [← opsel_of_decode hd, h]; rfl
  refine step_instruction ?_
  rw [fetch_request hb hp hq, accept_taken (s := { s with reqs := rs, pins := ps }) hop, hd]

/-- RST after a request was taken and before anything of it shows (70_reset_and_hazards.md R238). -/
theorem step_request_rst {s : State} {ps qs : List Pin} {r : Request} {rs : List Request} (hb : s.busy = false)
    (hp : reading s.pins = .clear ps) (hr : reading ps = .rst qs) (hq : s.reqs = r :: rs)
    (hd : ∀ op, decode r ≠ .error (.malformedRecord op)) :
    step s = .next (resetRegs { s with reqs := rs, pins := qs }) := by
  have hfetch := fetch_request hb hp hq
  cases accept_cases r { s with reqs := rs, pins := ps } with
  | refused h => rw [step_settled (hfetch.trans h), unlessRst_rst hr]
  | illegal op h =>
    rw [step_settled (hfetch.trans h), unlessRst_rst (s := startOp op { s with reqs := rs, pins := ps }) hr]
    rfl
  | malformed op he h => exact absurd he (hd op)
  | runs i _ _ h => rw [step_instruction (hfetch.trans h), exec_rst hr]

/-- Settles O5: at each of the three places the step is the reset. -/
theorem rstResetsAtAnyTime : Obligations.RstResetsAtAnyTime := by
  refine ⟨fun s ps h => ?_, fun s ps qs r rs hb hp hr hq hd => ?_⟩
  · rcases h with ⟨hb, hp⟩ | ⟨hb, ha⟩
    · exact abandoned_of_resetRegs (step_idle_rst hb hp)
    · exact abandoned_of_resetRegs (step_busy_rst hb ha)
  · exact abandoned_of_resetRegs (s := { s with reqs := rs }) (step_request_rst hb hp hr hq hd)

/-- Settles O12: RST at the start abandons every operation, and RST that arrives at a waiting block resets it;
after a completion it arrives in the completion's place. -/
theorem rstAbandonsOperation : Obligations.RstAbandonsOperation := by
  refine ⟨fun i s ps hp => abandoned_of_resetRegs (exec_rst hp), fun i s t q ps _ hb hq => ?_⟩
  have ha : arrival q = .rst ps := by
    rcases hq with ha | ⟨ok, r, rfl, hr⟩
    · exact ha
    · exact arrival_done_rst hr
  exact abandoned_of_resetRegs (step_busy_rst (s := { t with pins := q }) hb ha)

/-! ## The busy block -/

/-- All that a busy block can do at a step: RST resets it, or it goes on. -/
theorem step_busy_cases {s t : State} (hb : s.busy = true) (h : step s = .next t) :
    (∃ ps, t = resetRegs { s with pins := ps }) ∨ t = resume s := by
  by_cases hr : ∃ ps, arrival s.pins = .rst ps
  · obtain ⟨ps, ha⟩ := hr
    exact .inl ⟨ps, (Host.Outcome.next.inj ((step_busy_rst hb ha).symm.trans h)).symm⟩
  · exact .inr (Host.Outcome.next.inj ((step_busy hb (not_exists.1 hr)).symm.trans h)).symm

/-- All that going on can be: the wait for the transfer on offer, or the run of what is left. -/
theorem resume_cases (s : State) :
    (∃ kind x eff w, resume s = await kind eff (.xfer kind x eff :: w) (run w) s) ∨ resume s = run s.work s := by
  unfold resume
  split
  · exact .inl ⟨_, _, _, _, rfl⟩
  · exact .inr rfl

/-- No action takes a request from the port: neither a run nor a wait does. -/
theorem run_await_reqs (q : List Request) :
    (∀ w s, s.reqs = q → (run w s).reqs = q) ∧
      ∀ kind x eff w s, s.reqs = q → (await kind eff (.xfer kind x eff :: w) (run w) s).reqs = q :=
  run_induction (I := fun _ s => s.reqs = q) (J := fun _ _ _ _ s => s.reqs = q) (Q := fun s => s.reqs = q)
    (hend := fun _ h => h) (hseq := fun _ _ _ h => h) (hskip := fun _ _ _ h _ => h)
    (hxfer := fun _ _ _ _ _ h => h) (hrelay := fun _ _ _ h _ => h) (hwait := fun _ _ _ _ _ h _ => h)
    (hdone := fun _ _ _ _ _ _ h _ => (complete_reqs _ _ _).trans h) (hfail := fun _ _ _ _ _ _ h _ => h)
    (hrst := fun _ _ _ _ _ _ h _ => h)

theorem resume_reqs (s : State) : (resume s).reqs = s.reqs := by
  rcases resume_cases s with ⟨kind, x, eff, w, h⟩ | h
  · rw [h]; exact (run_await_reqs s.reqs).2 kind x eff w s rfl
  · rw [h]; exact (run_await_reqs s.reqs).1 s.work s rfl

/-- Settles O9: a busy block is reset or goes on, and neither touches the port. -/
theorem busyBlockHoldsRequests : Obligations.BusyBlockHoldsRequests := by
  intro s t hb h
  rcases step_busy_cases hb h with ⟨ps, rfl⟩ | rfl
  · rfl
  · exact resume_reqs s

/-- Settles O10: by the invariant the work left begins with the transfer on offer, and waiting for it leaves the
same work. -/
theorem waitsForTheTransport : Obligations.WaitsForTheTransport := by
  intro s inv hb ha
  obtain ⟨-, -, -, kind, eff, w, hw⟩ := inv.waiting hb
  rw [step_busy hb (by simp [ha]), resume_xfer hw, await_nothing ha, ← hw]

end Sys2Proof.Machine
end

section
/-! PROOF. Every step keeps the machine invariant (spec/10_state.md R21 to R38). Of an idle block it says little beyond
the fault record, the buffers and CFG (`RegsInv`). While actions run it holds in a form of its own (`Running`), in which
the actions still to come are those of the run; a wait turns that form into the invariant of a busy block. -/

namespace Sys2Proof.Machine

/-! ## The clauses that hold of every block alike -/

/-- The clauses of the invariant that hold of a block whether it is idle or busy: the fault record, the buffers and
CFG. -/
structure RegsInv (s : State) : Prop where
  codeHeld : s.fault.code.toNat ≤ 9
  noFault : s.fault.code = 0 → s.fault = .none
  faultSeq : s.fault.seq.toNat ≤ 9 ∧ (s.fault.seq ≠ 0 → s.fault.code = 1 ∧ s.fault.op = 0x1F)
  ibufWf : Memory.wf 20480 s.ibuf = true
  obufWf : Memory.wf 20512 s.obuf = true
  cfgHeld : s.cfg = Config.cfgDefault ∨ accepted s.cfg

theorem StateInv.regs {s : State} (h : StateInv s) : RegsInv s := { h with }

/-- The invariant of an idle block. -/
theorem stateInv_of_idle {s : State} (h : RegsInv s) (hb : s.busy = false) (hs : s.seq = 0)
    (hx : s.xferValid = false) (hw : s.work = []) : StateInv s :=
  { h with
    seqHeld := by simp [hs]
    workHeld := by rw [hw]; rfl
    seqEnds := by rw [hw]; exact hs
    seqOfApply := by rw [hw, hs]; rintro (h | h) <;> exact absurd h (by decide)
    idle := fun _ => ⟨hs, hx, hw⟩
    waiting := by rw [hb]; nofun }

theorem regsInv_resetRegs (s : State) : RegsInv (resetRegs s) where
  codeHeld := Nat.zero_le 9
  noFault := fun _ => rfl
  faultSeq := ⟨Nat.zero_le 9, fun h => absurd rfl h⟩
  ibufWf := rfl
  obufWf := rfl
  cfgHeld := .inl rfl

theorem stateInv_resetRegs (s : State) : StateInv (resetRegs s) :=
  stateInv_of_idle (regsInv_resetRegs s) rfl rfl rfl rfl

/-- Settles O2: the reset state is its own reset. -/
theorem invariantHoldsAtReset : Obligations.InvariantHoldsAtReset := stateInv_resetRegs State.reset

/-! ## Fault entry and the end of an operation -/

theorem faultCode_range (c : FaultCode) : c.code.toNat ≤ 9 ∧ c.code ≠ 0 := by cases c <;> decide

/-- Fault entry keeps the invariant: FAULT_SEQ takes SEQ, which is 0 but for TRANSPORT in APPLY
(60_exceptions.md R213, R215). -/
theorem stateInv_raise {r : FaultReason} {s : State} (h : RegsInv s) (hk : s.seq.toNat ≤ 9)
    (hs : s.seq ≠ 0 → r.code = .transport ∧ s.op = 0x1F) : StateInv (raise r s) := by
  have range := faultCode_range r.code
  refine stateInv_of_idle { h with codeHeld := range.1, noFault := ?_, faultSeq := ⟨hk, ?_⟩ } rfl rfl rfl rfl
  · exact fun hc => absurd hc range.2
  · intro hq
    obtain ⟨ht, ho⟩ := hs hq
    exact ⟨congrArg FaultCode.code ht, ho⟩

/-- Fault entry of a block whose SEQ is 0, whatever the fault. -/
theorem stateInv_raise_of_seq {r : FaultReason} {s : State} (h : RegsInv s) (hs : s.seq = 0) : StateInv (raise r s) :=
  stateInv_raise h (by simp [hs]) (fun hn => absurd hs hn)

/-! ## A run of actions -/

/-- The invariant before the actions `w` run from `s`. -/
structure Running (w : List Action) (s : State) : Prop where
  regs : RegsInv s
  noFault : s.fault.code = 0
  busy : s.busy = true
  noResult : s.resValid = false
  seqHeld : s.seq.toNat ≤ 9
  workHeld : seqsHeld w = true
  seqEnds : finalSeq w s.seq = 0
  seqOfApply : s.seq ≠ 0 ∨ usesSeq w = true → s.op = 0x1F

/-- A transfer sets no SEQ value, so what holds with it at the head holds of the actions after it. -/
theorem Running.tail_xfer {kind : XferKind} {x : Transfer} {eff : Effect} {w : List Action} {s : State}
    (h : Running (.xfer kind x eff :: w) s) : Running w s := { h with }

theorem Running.tail_relays {mask : RelayMask} {w : List Action} {s : State} (h : Running (.relays mask :: w) s) :
    Running w s := { h with }

theorem Running.offered {w : List Action} {s : State} (h : Running w s) (x : Transfer) : Running w (offer x s) :=
  { h with regs := { h.regs with } }

theorem Running.writeSeq {k : BitVec 4} {w : List Action} {s : State} (h : Running (.seq k :: w) s) :
    Running w (writeSeq k s) := by
  have held : k.toNat ≤ 9 ∧ seqsHeld w = true := by simpa [seqsHeld] using h.workHeld
  exact { h with
    regs := { h.regs with }
    seqHeld := held.1
    workHeld := held.2
    seqOfApply := fun _ => h.seqOfApply (.inr rfl) }

theorem Running.completed {w : List Action} {s : State} (h : Running w s) (eff : Effect) (ps : List Pin) :
    Running w (complete eff ps s) := by
  cases eff <;> exact { h with regs := { h.regs with } }

/-- At the end of its actions an operation posts its result, with SEQ at 0. -/
theorem Running.ended {s : State} (h : Running [] s) (hx : s.xferValid = false) (v : ResValue) :
    StateInv (post v s) :=
  stateInv_of_idle { h.regs with } rfl h.seqEnds hx rfl

/-- A failed transfer is a TRANSPORT fault, whose FAULT_SEQ may be a step of APPLY. -/
theorem Running.failed {w : List Action} {s : State} (h : Running w s) (info : Word) (ps : List Pin) :
    StateInv (raise ⟨.transport, info⟩ { s with pins := ps }) :=
  stateInv_raise { h.regs with } h.seqHeld fun hs => ⟨rfl, h.seqOfApply (.inl hs)⟩

/-- A block that waits for the transfer it offers. -/
theorem Running.waits {w : List Action} {s : State} (h : Running w s) (hx : s.xferValid = true) (kind : XferKind)
    (eff : Effect) : StateInv { s with work := .xfer kind s.xfer eff :: w } :=
  { h.regs with
    seqHeld := h.seqHeld
    workHeld := h.workHeld
    seqEnds := h.seqEnds
    seqOfApply := h.seqOfApply
    idle := fun hb => by cases h.busy.symm.trans hb
    waiting := fun _ => ⟨h.noFault, hx, h.noResult, kind, eff, w, rfl⟩ }

/-- A run and a wait end in the invariant. -/
theorem run_await_inv :
    (∀ w s, Running w s ∧ s.xferValid = false → StateInv (run w s)) ∧
      ∀ kind x eff w s, Running w s ∧ s.xferValid = true ∧ s.xfer = x →
        StateInv (await kind eff (.xfer kind x eff :: w) (run w) s) := by
  apply run_induction
  case hend => exact fun s ⟨h, hx⟩ => h.ended hx _
  case hseq => exact fun k w s ⟨h, hx⟩ => ⟨h.writeSeq, hx⟩
  case hskip => exact fun mask w s ⟨h, hx⟩ _ => ⟨h.tail_relays, hx⟩
  case hxfer => exact fun kind x eff w s ⟨h, _⟩ => ⟨h.tail_xfer.offered x, rfl, rfl⟩
  case hrelay => exact fun mask w s ⟨h, _⟩ _ => ⟨h.tail_relays.offered _, rfl, rfl⟩
  case hwait => rintro kind x eff w s ⟨h, hx, rfl⟩ _; exact h.waits hx kind eff
  case hdone => exact fun kind x eff w s ps ⟨h, _⟩ _ => ⟨h.completed eff ps, complete_xferValid s eff ps⟩
  case hfail => exact fun kind x eff w s ps ⟨h, _⟩ _ => h.failed _ ps
  case hrst => exact fun _ _ _ _ _ _ _ _ => stateInv_resetRegs _

/-- A busy block of the invariant is in the midst of a run. -/
theorem StateInv.running {s : State} (h : StateInv s) (hb : s.busy = true) :
    ∃ kind eff w, s.work = .xfer kind s.xfer eff :: w ∧ Running w s ∧ s.xferValid = true := by
  obtain ⟨hf, hx, hr, kind, eff, w, hw⟩ := h.waiting hb
  have workHeld := h.workHeld
  have seqEnds := h.seqEnds
  have seqOfApply := h.seqOfApply
  rw [hw] at workHeld seqEnds seqOfApply
  exact ⟨kind, eff, w, hw, ⟨h.regs, hf, hb, hr, h.seqHeld, workHeld, seqEnds, seqOfApply⟩, hx⟩

theorem stateInv_resume {s : State} (h : StateInv s) (hb : s.busy = true) : StateInv (resume s) := by
  obtain ⟨kind, eff, w, hw, hr, hx⟩ := h.running hb
  rw [resume_xfer hw]
  exact run_await_inv.2 kind s.xfer eff w s ⟨hr, hx, rfl⟩

/-! ## What APPLY accepts -/

/-- The slowest step divides the clock by 40000 (42_sample_clock.md R124). -/
theorem stairCount_le (c : BitVec 4) : stairCount c ≤ 40000 := by
  revert c
  decide

/-- No staircase step is longer than 400 µs (10_state.md R26). -/
theorem stair_le (c : BitVec 4) : stair c ≤ 400 / 10 ^ 6 := by
  have count : (stairCount c : Rat) ≤ 40000 := by exact_mod_cast stairCount_le c
  unfold stair
  split
  · norm_num
  · linarith

/-- A request that the quantizer gives a code is not above 400 µs (42_sample_clock.md R126). -/
theorem le_of_quantize {q : Rat} {c : BitVec 4} (h : quantize q = some c) : q ≤ 400 / 10 ^ 6 := by
  unfold quantize at h
  split at h
  · next hq => exact hq.trans (by norm_num)
  · have hq : q ≤ stair c := by simpa using List.find?_some h
    exact hq.trans (stair_le c)

theorem le_of_requireRate {q : Rat} {c : BitVec 4} (h : requireRate q = .ok c) : q ≤ 400 / 10 ^ 6 := by
  unfold requireRate at h
  split at h
  · next hq => exact le_of_quantize hq
  · cases h

theorem require_eq_ok {ok : Bool} {r : FaultReason} {u : Unit} (h : require ok r = .ok u) : ok = true := by
  cases ok with
  | true => rfl
  | false => cases h

/-- The checks of APPLY give a configuration that the invariant allows in CFG (43_config_translator.md R161). -/
theorem accepted_of_validate {c : CfgOperand} {s : State} {cfg : InstrumentConfig} {code : BitVec 4}
    (h : validate c s = .ok (cfg, code)) : accepted cfg := by
  obtain ⟨cfg', -, h⟩ := bind_eq_ok h
  obtain ⟨_, h0, h⟩ := bind_eq_ok h
  obtain ⟨_, h1, h⟩ := bind_eq_ok h
  obtain ⟨_, -, h⟩ := bind_eq_ok h
  obtain ⟨code', hr, h⟩ := bind_eq_ok h
  obtain ⟨rfl, rfl⟩ := Prod.mk.inj (Except.ok.inj h)
  have off0 := of_decide_eq_true (require_eq_ok h0)
  have off1 := of_decide_eq_true (require_eq_ok h1)
  exact ⟨off0.1, off0.2, off1.1, off1.2, le_of_requireRate hr⟩

/-! ## Instructions -/

/-- An idle block in no fault state that accepts an operation begins the run of its actions. -/
theorem StateInv.starts {s : State} (h : StateInv s) (hb : s.busy = false) (hf : s.fault.code = 0) {w : List Action}
    {op : Byte} (hw : seqsHeld w = true) (he : finalSeq w 0 = 0) (ha : usesSeq w = true → op = 0x1F) :
    Running w (startOp op s) ∧ (startOp op s).xferValid = false := by
  obtain ⟨hs, hx, -⟩ := h.idle hb
  refine ⟨⟨{ h.regs with }, hf, rfl, rfl, h.seqHeld, hw, ?_, ?_⟩, hx⟩
  · rw [startOp_seq, hs]; exact he
  · rintro (hn | hu)
    · exact absurd hs hn
    · exact ha hu

/-- RESET ends at the reset state with its result posted. -/
theorem stateInv_post_resetRegs (v : ResValue) (s : State) : StateInv (post v (resetRegs s)) :=
  stateInv_of_idle { regsInv_resetRegs s with } rfl rfl rfl rfl

/-- Every course of an instruction from an idle block in no fault state keeps the invariant. -/
theorem stateInv_course {i : Instr} {s t : State} (h : StateInv s) (hb : s.busy = false) (hf : s.fault.code = 0)
    (hc : Course i s t) : StateInv t := by
  obtain ⟨hs, hx, -⟩ := h.idle hb
  cases hc with
  | refused r _ _ ht =>
    subst ht
    exact stateInv_raise_of_seq { h.regs with } hs
  | command b eff _ _ ht =>
    subst ht
    exact run_await_inv.1 _ _ (h.starts hb hf rfl rfl nofun)
  | relays mask _ ht =>
    subst ht
    exact run_await_inv.1 _ _ (h.starts hb hf rfl rfl nofun)
  | offsets w0 w1 wt _ ht =>
    subst ht
    exact run_await_inv.1 _ _ (h.starts hb hf rfl rfl nofun)
  | applied c cfg code hi hv ht =>
    subst ht hi
    obtain ⟨run, noXfer⟩ := h.starts hb hf (w := applySteps params s.cal cfg code) rfl rfl (fun _ => rfl)
    exact run_await_inv.1 _ _
      ⟨{ run with regs := { run.regs with cfgHeld := .inr (accepted_of_validate hv) } }, noXfer⟩
  | ended v cal calValid ibuf obuf _ _ _ wn wm ht =>
    subst ht
    exact stateInv_of_idle { h.regs with ibufWf := wn h.ibufWf, obufWf := wm h.obufWf } rfl hs hx rfl
  | reset _ ht =>
    subst ht
    exact stateInv_post_resetRegs _ _

/-- The invariant does not speak of the ports' lists. -/
theorem StateInv.ports {s : State} (h : StateInv s) (rs : List Request) (ps : List Pin) :
    StateInv { s with reqs := rs, pins := ps } := { h with }

/-- An instruction that an idle block accepts keeps the invariant: RESET in every state, any other in no fault
state. -/
theorem stateInv_exec {i : Instr} {s t : State} (h : StateInv s) (hb : s.busy = false)
    (hf : s.fault.code = 0 ∨ i = .reset) (he : exec i s = .next t) : StateInv t := by
  cases hr : reading s.pins with
  | rst ps =>
    obtain rfl := Host.Outcome.next.inj ((exec_rst hr).symm.trans he)
    exact stateInv_resetRegs _
  | clear ps =>
    rcases hf with hf | rfl
    · exact stateInv_course (h.ports s.reqs ps) hb hf (course_of_exec_clear hr he)
    · rw [exec, execReset, unlessRst_clear hr] at he
      obtain rfl := Host.Outcome.next.inj he
      exact stateInv_post_resetRegs _ _

/-- An answer that RST may abandon keeps the invariant if the answer does. -/
theorem stateInv_unlessRst {go : State → State} {s t : State}
    (hgo : ∀ ps, StateInv (go { s with pins := ps }))
    (h : unlessRst Host.Outcome.next (fun u => (.next (go u) : Host.Outcome State Fault Refusal)) s = .next t) :
    StateInv t := by
  cases hr : reading s.pins with
  | rst ps =>
    rw [unlessRst_rst hr] at h
    obtain rfl := Host.Outcome.next.inj h
    exact stateInv_resetRegs _
  | clear ps =>
    rw [unlessRst_clear hr] at h
    obtain rfl := Host.Outcome.next.inj h
    exact hgo ps

/-- What an idle block answers to a request keeps the invariant. -/
theorem stateInv_taken {r : Request} {s u t : State} (h : StateInv u) (hb : u.busy = false)
    (hfetch : fetch s = accept r u) (hstep : step s = .next t) : StateInv t := by
  obtain ⟨hs, hx, hw⟩ := h.idle hb
  cases accept_cases r u with
  | refused ha =>
    rw [step_settled (hfetch.trans ha)] at hstep
    exact stateInv_unlessRst (fun ps => stateInv_of_idle { h.regs with } hb hs hx hw) hstep
  | illegal op ha =>
    rw [step_settled (hfetch.trans ha)] at hstep
    exact stateInv_unlessRst (s := startOp op u) (fun ps => stateInv_raise_of_seq { h.regs with } hs) hstep
  | malformed op _ ha =>
    rw [step_settled (hfetch.trans ha)] at hstep
    cases hstep
  | runs i _ hf ha =>
    rw [step_instruction (hfetch.trans ha)] at hstep
    exact stateInv_exec h hb hf hstep

/-- Settles O3: a busy block is reset or goes on with its run; an idle one is reset, keeps its registers, or answers
a request. -/
theorem stepKeepsInvariant : Obligations.StepKeepsInvariant := by
  intro s t inv h
  cases hb : s.busy with
  | true =>
    rcases step_busy_cases hb h with ⟨ps, rfl⟩ | rfl
    · exact stateInv_resetRegs _
    · exact stateInv_resume inv hb
  | false =>
    cases hp : reading s.pins with
    | rst ps =>
      obtain rfl := Host.Outcome.next.inj ((step_idle_rst hb hp).symm.trans h)
      exact stateInv_resetRegs _
    | clear ps =>
      cases hq : s.reqs with
      | nil =>
        obtain rfl := Host.Outcome.next.inj ((step_no_request hb hp hq).symm.trans h)
        exact inv.ports s.reqs _
      | cons r rs => exact stateInv_taken (inv.ports rs ps) hb (fetch_request hb hp hq) h

end Sys2Proof.Machine
end

section
/-! PROOF. Which operation writes which register (spec/10_state.md R31): an operation's actions are checked against
what it may write (`Action.within`), and a run keeps every other register (`Keeps`). -/

namespace Sys2Proof.Machine

/-! ## The writers -/

/-- The registers that only named operations write (10_state.md R31). -/
inductive Register where
  | cal | relayShadow | sampleT | cfg | seq

/-- The registers that an operation may write, RESET and fault entry apart (10_state.md R31). -/
def mayWrite : Instr → Register → Bool
  | .calLoad _, .cal => true
  | .encRelays _ _ _ _ _, .relayShadow => true
  | .quantSamplerate _, .sampleT => true
  | .apply _, .relayShadow => true
  | .apply _, .sampleT => true
  | .apply _, .cfg => true
  | .apply _, .seq => true
  | _, _ => false

theorem mayWrite_cal {i : Instr} (h : ∀ lv, i ≠ .calLoad lv) : mayWrite i .cal = false := by
  cases i
  case calLoad lv => exact absurd rfl (h lv)
  all_goals rfl

theorem mayWrite_relayShadow {i : Instr} (hr : ∀ a b c d e, i ≠ .encRelays a b c d e) (ha : ∀ c, i ≠ .apply c) :
    mayWrite i .relayShadow = false := by
  cases i
  case encRelays a b c d e => exact absurd rfl (hr a b c d e)
  case apply c => exact absurd rfl (ha c)
  all_goals rfl

theorem mayWrite_sampleT {i : Instr} (hq : ∀ q, i ≠ .quantSamplerate q) (ha : ∀ c, i ≠ .apply c) :
    mayWrite i .sampleT = false := by
  cases i
  case quantSamplerate q => exact absurd rfl (hq q)
  case apply c => exact absurd rfl (ha c)
  all_goals rfl

theorem mayWrite_cfg_seq {i : Instr} (ha : ∀ c, i ≠ .apply c) : mayWrite i .cfg = false ∧ mayWrite i .seq = false := by
  cases i
  case apply c => exact absurd rfl (ha c)
  all_goals exact ⟨rfl, rfl⟩

/-! ## What is kept -/

/-- From `s` to `t` no register changed but those in `may`, SEQ apart, which fault entry clears; the requests are
held, and what was sent stays sent. -/
structure Keeps (may : Register → Bool) (s t : State) : Prop where
  cal : may .cal = false → t.cal = s.cal ∧ t.calValid = s.calValid
  relayShadow : may .relayShadow = false → t.relayShadow = s.relayShadow ∧ t.relayValid = s.relayValid
  sampleT : may .sampleT = false → t.sampleTCode = s.sampleTCode ∧ t.sampleTValid = s.sampleTValid
  cfg : may .cfg = false → t.cfg = s.cfg
  seq : may .seq = false → t.seq = s.seq ∨ t.seq = 0
  reqs : t.reqs = s.reqs
  sent : ∃ xs, t.sent = s.sent ++ xs

/-- A fault record that changed is one that was posted (60_exceptions.md R215). -/
def FaultPosted (s t : State) : Prop :=
  t.fault = s.fault ∨ t.resKind = .fault ∧ t.resValue = .record t.fault

section
variable {may : Register → Bool} {s t u : State}

theorem Keeps.refl (may : Register → Bool) (s : State) : Keeps may s s where
  cal := fun _ => ⟨rfl, rfl⟩
  relayShadow := fun _ => ⟨rfl, rfl⟩
  sampleT := fun _ => ⟨rfl, rfl⟩
  cfg := fun _ => rfl
  seq := fun _ => .inl rfl
  reqs := rfl
  sent := ⟨[], (List.append_nil _).symm⟩

theorem Keeps.trans (h : Keeps may s t) (k : Keeps may t u) : Keeps may s u where
  cal := fun m => ⟨(k.cal m).1.trans (h.cal m).1, (k.cal m).2.trans (h.cal m).2⟩
  relayShadow := fun m =>
    ⟨(k.relayShadow m).1.trans (h.relayShadow m).1, (k.relayShadow m).2.trans (h.relayShadow m).2⟩
  sampleT := fun m => ⟨(k.sampleT m).1.trans (h.sampleT m).1, (k.sampleT m).2.trans (h.sampleT m).2⟩
  cfg := fun m => (k.cfg m).trans (h.cfg m)
  seq := fun m => by
    rcases k.seq m with hu | hu
    · rw [hu]; exact h.seq m
    · exact .inr hu
  reqs := k.reqs.trans h.reqs
  sent := by
    obtain ⟨xs, hx⟩ := h.sent
    obtain ⟨ys, hy⟩ := k.sent
    exact ⟨xs ++ ys, by rw [hy, hx, List.append_assoc]⟩

theorem keeps_startOp (op : Byte) : Keeps may s (startOp op s) := { Keeps.refl may s with }

theorem keeps_post (v : ResValue) : Keeps may s (post v s) := { Keeps.refl may s with }

theorem keeps_raise (r : FaultReason) : Keeps may s (raise r s) := { Keeps.refl may s with seq := fun _ => .inr rfl }

theorem keeps_offer (x : Transfer) : Keeps may s (offer x s) := { Keeps.refl may s with sent := ⟨[x], rfl⟩ }

theorem keeps_writeSeq (k : BitVec 4) (h : may .seq = true) : Keeps may s (writeSeq k s) :=
  { Keeps.refl may s with seq := fun hn => by cases h.symm.trans hn }

theorem keeps_writeCfg (c : InstrumentConfig) (h : may .cfg = true) : Keeps may s (writeCfg c s) :=
  { Keeps.refl may s with cfg := fun hn => by cases h.symm.trans hn }

theorem keeps_pins (ps : List Pin) : Keeps may s { s with pins := ps } := { Keeps.refl may s with }

/-- The register that an effect writes is one of `may`. -/
def Effect.within (may : Register → Bool) : Effect → Prop
  | .none => True
  | .relayShadow _ => may .relayShadow = true
  | .sampleT _ => may .sampleT = true

theorem keeps_complete {eff : Effect} (ps : List Pin) (h : eff.within may) : Keeps may s (complete eff ps s) := by
  cases eff with
  | none => exact { Keeps.refl may s with }
  | relayShadow m => exact { Keeps.refl may s with relayShadow := fun hn => by cases h.symm.trans hn }
  | sampleT c => exact { Keeps.refl may s with sampleT := fun hn => by cases h.symm.trans hn }

/-! ## What a run keeps -/

/-- The registers that an action writes are among `may`. -/
def Action.within (may : Register → Bool) : Action → Prop
  | .seq _ => may .seq = true
  | .xfer _ _ eff => eff.within may
  | .relays _ => may .relayShadow = true

/-- What holds before the actions `w` run from `u`, in a run that began at `s` and that no RST abandons. -/
structure Keeping (may : Register → Bool) (s : State) (w : List Action) (u : State) : Prop where
  keeps : Keeps may s u
  fault : u.fault = s.fault
  noRst : Pin.rst ∉ u.pins
  within : ∀ a ∈ w, a.within may

/-- A run keeps what its actions do not write, and changes the fault record only by a fault that is posted. -/
theorem run_keeps {w : List Action} (hw : ∀ a ∈ w, a.within may) (hp : Pin.rst ∉ s.pins) :
    Keeps may s (run w s) ∧ FaultPosted s (run w s) := by
  refine (run_induction (I := Keeping may s) (J := fun _ _ eff w u => Keeping may s w u ∧ eff.within may)
    (Q := fun u => Keeps may s u ∧ FaultPosted s u)
    ?hend ?hseq ?hskip ?hxfer ?hrelay ?hwait ?hdone ?hfail ?hrst).1 w s ⟨Keeps.refl may s, rfl, hp, hw⟩
  case hend => exact fun u h => ⟨h.keeps.trans (keeps_post _), .inl h.fault⟩
  case hseq =>
    intro k w u h
    obtain ⟨hk, hw⟩ := List.forall_mem_cons.1 h.within
    exact ⟨h.keeps.trans (keeps_writeSeq k hk), h.fault, h.noRst, hw⟩
  case hskip => exact fun mask w u h _ => { h with within := (List.forall_mem_cons.1 h.within).2 }
  case hxfer =>
    intro kind x eff w u h
    obtain ⟨he, hw⟩ := List.forall_mem_cons.1 h.within
    exact ⟨⟨h.keeps.trans (keeps_offer x), h.fault, h.noRst, hw⟩, he⟩
  case hrelay =>
    intro mask w u h _
    obtain ⟨hm, hw⟩ := List.forall_mem_cons.1 h.within
    exact ⟨⟨h.keeps.trans (keeps_offer _), h.fault, h.noRst, hw⟩, hm⟩
  case hwait => exact fun kind x eff w u ⟨h, _⟩ _ => ⟨{ h.keeps with }, .inl h.fault⟩
  case hdone =>
    intro kind x eff w u ps ⟨h, he⟩ ha
    refine ⟨h.keeps.trans (keeps_complete ps he), (complete_fault u eff ps).trans h.fault, ?_, h.within⟩
    rw [complete_pins]
    exact fun hm => h.noRst (mem_of_arrival_done ha hm)
  case hfail =>
    exact fun kind x eff w u ps ⟨h, _⟩ _ =>
      ⟨(h.keeps.trans (keeps_pins ps)).trans (keeps_raise _), .inr ⟨rfl, rfl⟩⟩
  case hrst => exact fun kind x eff w u ps ⟨h, _⟩ ha => absurd (rst_mem_of_arrival ha) h.noRst

end

/-! ## What an instruction keeps -/

theorem within_deviceCommand {may : Register → Bool} {b : List Byte} {eff : Effect} (h : eff.within may) :
    ∀ a ∈ deviceCommand params b eff, a.within may :=
  List.forall_mem_cons.2 ⟨trivial, List.forall_mem_singleton.2 h⟩

/-- APPLY may write whatever an action can. -/
theorem within_apply (c : CfgOperand) (a : Action) : a.within (mayWrite (.apply c)) := by
  cases a with
  | seq k => rfl
  | relays mask => rfl
  | xfer kind x eff =>
    cases eff with
    | none => trivial
    | relayShadow m => rfl
    | sampleT code => rfl

/-- A run right after an operation's acceptance keeps what its actions do not write. -/
theorem run_startOp_keeps {may : Register → Bool} {w : List Action} {op : Byte} {s : State}
    (hw : ∀ a ∈ w, a.within may) (hp : Pin.rst ∉ s.pins) :
    Keeps may s (run w (startOp op s)) ∧ FaultPosted s (run w (startOp op s)) := by
  obtain ⟨keeps, fault⟩ := run_keeps (s := startOp op s) hw hp
  exact ⟨(keeps_startOp op).trans keeps, fault⟩

/-- Every course but that of RESET keeps the registers that its operation does not write. -/
theorem course_keeps {i : Instr} {s t : State} (hc : Course i s t) (hp : Pin.rst ∉ s.pins) (hi : i ≠ .reset) :
    Keeps (mayWrite i) s t ∧ FaultPosted s t := by
  cases hc with
  | refused r _ _ ht =>
    subst ht
    exact ⟨(keeps_startOp _).trans (keeps_raise r), .inr ⟨rfl, rfl⟩⟩
  | command b eff _ he ht =>
    subst ht
    refine run_startOp_keeps (within_deviceCommand ?_) hp
    rcases he with rfl | ⟨q, code, rfl, rfl⟩
    · trivial
    · rfl
  | relays mask hr ht =>
    subst ht
    obtain ⟨_, _, _, _, _, rfl⟩ := hr
    exact run_startOp_keeps (List.forall_mem_singleton.2 rfl) hp
  | offsets w0 w1 wt _ ht =>
    subst ht
    exact run_startOp_keeps (List.forall_mem_singleton.2 trivial) hp
  | applied c cfg code ha _ ht =>
    subst ht ha
    obtain ⟨keeps, fault⟩ := run_keeps (may := mayWrite (.apply c)) (w := applySteps params s.cal cfg code)
      (s := writeCfg cfg (startOp (Instr.apply c).opsel s)) (fun a _ => within_apply c a) hp
    exact ⟨((keeps_startOp _).trans (keeps_writeCfg cfg rfl)).trans keeps, fault⟩
  | ended v cal calValid ibuf obuf hcal _ _ _ _ ht =>
    subst ht
    refine ⟨{ Keeps.refl _ s with cal := ?_ }, .inl rfl⟩
    rcases hcal with ⟨rfl, rfl⟩ | ⟨lv, rfl⟩
    · exact fun _ => ⟨rfl, rfl⟩
    · exact nofun
  | reset hr _ => exact absurd hr hi

/-- Where no RST is to come, an instruction but RESET keeps the registers that it does not write. -/
theorem exec_keeps {i : Instr} {s t : State} (h : exec i s = .next t) (hp : Pin.rst ∉ s.pins) (hi : i ≠ .reset) :
    Keeps (mayWrite i) s t ∧ FaultPosted s t := by
  rcases course_of_exec h with ⟨ps, hr, _⟩ | ⟨ps, hr, hc⟩
  · exact absurd (rst_mem_of_reading hr) hp
  · obtain ⟨keeps, fault⟩ := course_keeps hc (fun hm => hp (mem_of_reading_clear hr hm)) hi
    exact ⟨{ keeps with }, fault⟩

/-- Settles O23: what an instruction keeps, register by register. -/
theorem registerWriters : Obligations.RegisterWriters := by
  intro i s t h hp hi
  obtain ⟨keeps, fault⟩ := exec_keeps h hp hi
  exact ⟨fun hl => keeps.cal (mayWrite_cal hl),
    fun hr ha => keeps.relayShadow (mayWrite_relayShadow hr ha),
    fun hq ha => keeps.sampleT (mayWrite_sampleT hq ha),
    fun ha => ⟨keeps.cfg (mayWrite_cfg_seq ha).1, keeps.seq (mayWrite_cfg_seq ha).2⟩,
    fault, keeps.reqs, keeps.sent⟩

end Sys2Proof.Machine
end

section
/-! PROOF. The course of an operation and the two buffers (spec/20_memory.md R45, R55): when the transport answers
makes no difference, and only the frame operations write a buffer. -/

namespace Sys2Proof.Machine

/-! ## Events that come later -/

/-- After the events to come, an answer of the transport comes, and then anything. -/
def later (ok : Bool) (r : List Pin) (s : State) : State := { s with pins := s.pins ++ .done ok :: r }

/-- `o` is what becomes of `t` when a further answer is appended to its events: the block goes on if it waits, and it
does not look at the answer if its operation has ended. -/
def Continues (ok : Bool) (r : List Pin) (t : State) (o : Host.Outcome State Fault Refusal) : Prop :=
  (t.busy = true → o = .next (resume (later ok r t))) ∧ (t.busy = false → o = .next (later ok r t))

section
variable {ok : Bool} {r : List Pin} {s t : State}

/-- An operation that has ended leaves a further answer where it stands. -/
theorem continues_of_ended (hb : t.busy = false) : Continues ok r t (.next (later ok r t)) :=
  ⟨fun h => (by cases hb.symm.trans h), fun _ => rfl⟩

theorem complete_later (eff : Effect) (ps : List Pin) :
    complete eff (ps ++ .done ok :: r) (later ok r s) = later ok r (complete eff ps s) := by cases eff <;> rfl

theorem complete_withWork (eff : Effect) (ps : List Pin) (v : List Action) :
    complete eff ps { s with work := v } = { complete eff ps s with work := v } := by cases eff <;> rfl

/-! ## A run of actions -/

/-- What stood in `work` before makes no difference to a wait and the run after it, which leave their own. -/
theorem await_withWork (kind : XferKind) (x : Transfer) (eff : Effect) (w : List Action) (s : State) (v : List Action) :
    await kind eff (.xfer kind x eff :: w) (run w) { s with work := v } =
      await kind eff (.xfer kind x eff :: w) (run w) s := by
  generalize h : await kind eff (.xfer kind x eff :: w) (run w) { s with work := v } = t
  refine ((run_induction (I := fun y u => run y { u with work := v } = t)
    (J := fun k z e y u => await k e (.xfer k z e :: y) (run y) { u with work := v } = t) (Q := fun u => u = t)
    ?hend ?hseq ?hskip ?hxfer ?hrelay ?hwait ?hdone ?hfail ?hrst).2 kind x eff w s h).symm
  case hend => exact fun _ h => h
  case hseq => exact fun _ _ _ h => h
  case hskip => exact fun _ _ u h hs => (run_relays_suppressed (s := { u with work := v }) hs).symm.trans h
  case hxfer => exact fun _ _ _ _ _ h => h
  case hrelay => exact fun _ _ u h hs => (run_relays_sent (s := { u with work := v }) hs).symm.trans h
  case hwait => exact fun _ _ _ _ u h ha => (await_nothing (s := { u with work := v }) ha).symm.trans h
  case hdone =>
    intro _ _ e _ u ps h ha
    rwa [await_done (s := { u with work := v }) ha, complete_withWork] at h
  case hfail => exact fun _ _ _ _ u _ h ha => (await_fail (s := { u with work := v }) ha).symm.trans h
  case hrst => exact fun _ _ _ _ u _ h ha => (await_rst (s := { u with work := v }) ha).symm.trans h

/-- A run that is answered later goes on to the state that it reaches when it is answered at once. -/
theorem run_continues {w : List Action} (hb : s.busy = true) :
    Continues ok r (run w s) (.next (run w (later ok r s))) := by
  refine (run_induction
    (I := fun v u => u.busy = true ∧ run v (later ok r u) = run w (later ok r s))
    (J := fun kind x eff v u => u.busy = true ∧
      await kind eff (.xfer kind x eff :: v) (run v) (later ok r u) = run w (later ok r s))
    (Q := fun u => Continues ok r u (.next (run w (later ok r s))))
    ?hend ?hseq ?hskip ?hxfer ?hrelay ?hwait ?hdone ?hfail ?hrst).1 w s ⟨hb, rfl⟩
  case hend => rintro u ⟨-, h⟩; rw [← h]; exact continues_of_ended rfl
  case hseq => exact fun _ _ _ h => h
  case hskip => exact fun mask v u ⟨hu, h⟩ hs => ⟨hu, (run_relays_suppressed (s := later ok r u) hs).symm.trans h⟩
  case hxfer => exact fun _ _ _ _ _ h => h
  case hrelay => exact fun mask v u ⟨hu, h⟩ hs => ⟨hu, (run_relays_sent (s := later ok r u) hs).symm.trans h⟩
  case hwait =>
    intro kind x eff v u ⟨hu, h⟩ _
    refine ⟨fun _ => congrArg _ (h.symm.trans ?_), fun hn => (by cases hu.symm.trans hn)⟩
    exact (await_withWork kind x eff v (later ok r u) _).symm
  case hdone =>
    intro kind x eff v u ps ⟨hu, h⟩ ha
    rw [await_done (arrival_append_done ok r ha), complete_later] at h
    exact ⟨(complete_busy u eff ps).trans hu, h⟩
  case hfail =>
    intro kind x eff v u ps ⟨_, h⟩ ha
    rw [← h, await_fail (arrival_append_done ok r ha)]
    exact continues_of_ended rfl
  case hrst =>
    intro kind x eff v u ps ⟨_, h⟩ ha
    rw [← h, await_rst (arrival_append_rst ha)]
    exact continues_of_ended rfl

theorem emit_continues {w : List Action} (hb : s.busy = true) (h : emit w s = .next t) :
    Continues ok r t (emit w (later ok r s)) := by
  obtain rfl := emit_next h
  exact run_continues hb

/-! ## The bodies that use the buffers -/

/-- A body that succeeds does not see the events to come. -/
def IgnoresLater (ok : Bool) (r : List Pin) (f : State → Except Fault State) : Prop :=
  ∀ s t, f s = .ok t → f (later ok r s) = .ok (later ok r t)

theorem IgnoresLater.bind {f g : State → Except Fault State} (hf : IgnoresLater ok r f) (hg : IgnoresLater ok r g) :
    IgnoresLater ok r (fun s => f s >>= g) := by
  intro s t h
  cases hu : f s with
  | error e => simp only [hu] at h; cases h
  | ok u =>
    simp only [hu] at h
    simp only [hf s u hu]
    exact hg u t h

theorem dataHeaderBody_ignoresLater : IgnoresLater ok r dataHeaderBody := by
  intro s t h
  rw [dataHeaderBody_ok] at h ⊢
  cases h
  rfl

theorem stoppedHeaderBody_ignoresLater : IgnoresLater ok r stoppedHeaderBody := by
  intro s t h
  rw [stoppedHeaderBody_ok] at h ⊢
  cases h
  rfl

theorem placeBlock_ignoresLater (block : List Byte) : IgnoresLater ok r (placeBlock block) := by
  intro s t h
  obtain ⟨hl, rfl⟩ := placeBlock_eq_ok h
  exact placeBlock_ok hl

theorem memWrite_ignoresLater (a : Nat) (bs : List Byte) : IgnoresLater ok r (memWrite a bs) := by
  intro s t h
  obtain ⟨hl, rfl⟩ := memWrite_eq_ok h
  exact memWrite_ok hl

theorem unwrapBody_ignoresLater (tp : HalfWord) (block : List Byte) : IgnoresLater ok r (unwrapBody tp block) := by
  refine (placeBlock_ignoresLater block).bind fun s t h => ?_
  have same : memRead 0 20480 (later ok r s) = memRead 0 20480 s := rfl
  rw [same]
  cases hm : memRead 0 20480 s with
  | error e => rw [hm] at h; cases h
  | ok raw =>
    rw [hm] at h
    exact memWrite_ignoresLater 32 _ s t h

/-- A body that uses the buffers and then ends the operation. -/
theorem settle_continues {f : State → Except Fault State} (v : ResValue) (hf : IgnoresLater ok r f)
    (h : settle (f s >>= fun u => pure (post v u)) = .next t) :
    Continues ok r t (settle (f (later ok r s) >>= fun u => pure (post v u))) := by
  cases hu : f s with
  | error e => rw [hu] at h; cases h
  | ok u =>
    rw [hu] at h
    obtain rfl := Host.Outcome.next.inj h
    rw [hf s u hu]
    exact continues_of_ended rfl

/-! ## Instructions -/

/-- An operation continues if its checks do not look at the events to come and its body continues. -/
theorem perform_continues {α : Type} {op : Byte} {checks : State → Except FaultReason α}
    {body : α → State → Host.Outcome State Fault Refusal} {ps : List Pin} (hp : reading s.pins = .clear ps)
    (hc : ∀ u, checks (later ok r u) = checks u) (h : perform op checks body s = .next t)
    (hb : ∀ a u, u.busy = true → body a u = .next t → Continues ok r t (body a (later ok r u))) :
    Continues ok r t (perform op checks body (later ok r s)) := by
  have hq : reading (later ok r s).pins = .clear (ps ++ .done ok :: r) := reading_append_clear ok r hp
  have hs := hc (startOp op { s with pins := ps })
  refine cases_of_perform hp h (fun q hr ht => ?_) (fun a ha hn => ?_)
  · subst ht
    rw [perform_error (op := op) hq (hs.trans hr)]
    exact continues_of_ended rfl
  · rw [perform_ok (op := op) hq (hs.trans ha)]
    exact hb a _ rfl hn

/-- An instruction that RST does not abandon at once continues, whichever it is: its checks read registers only. -/
theorem exec_clear_continues {i : Instr} {ps : List Pin} (hp : reading s.pins = .clear ps) (h : exec i s = .next t) :
    Continues ok r t (exec i (later ok r s)) := by
  cases i
  case reset =>
    have hq : reading (later ok r s).pins = .clear (ps ++ .done ok :: r) := reading_append_clear ok r hp
    rw [exec, execReset, unlessRst_clear hp] at h
    obtain rfl := Host.Outcome.next.inj h
    rw [exec, execReset, unlessRst_clear hq]
    exact continues_of_ended rfl
  all_goals
    simp only [exec, execCalLoad, execCalLookup, execEncVoltage, execEncRelays, execEncTrigin, execEncChannels,
      execEncRamlen, execQuantSamplerate, execEncTriglen, execEncFilter, execEncOffsets, execApply, execCapStart,
      execCapTrigen, execCapForcetrig, execCapQuerystate, execCapGetdata, captureOp, execDecodeCapstate, execDecodeTp,
      execUnwrap, execBuildDataHeader, execBuildStoppedFrame, execAssembleFrame, execGetConfig] at h ⊢
    refine perform_continues hp (fun _ => rfl) h (fun a u hu hb => ?_)
  case calLoad | calLookup | decodeCapstate | decodeTp | getConfig =>
    obtain rfl := Host.Outcome.next.inj hb
    exact continues_of_ended rfl
  case unwrap tp len block => exact settle_continues _ (unwrapBody_ignoresLater tp block) hb
  case buildDataHeader => exact settle_continues _ dataHeaderBody_ignoresLater hb
  case buildStoppedFrame => exact settle_continues _ stoppedHeaderBody_ignoresLater hb
  case assembleFrame p len block =>
    simp only [← bind_assoc] at hb ⊢
    exact settle_continues _ (dataHeaderBody_ignoresLater.bind (unwrapBody_ignoresLater _ block)) hb
  case apply => exact emit_continues (s := writeCfg _ u) hu hb
  case encVoltage | encRelays | encTrigin | encChannels | encRamlen | quantSamplerate | encTriglen | encFilter
    | encOffsets | capStart | capTrigen | capForcetrig | capQuerystate | capGetdata =>
    exact emit_continues hu hb

/-- Every instruction continues when a further answer is appended to the events to come. -/
theorem exec_continues {i : Instr} (h : exec i s = .next t) : Continues ok r t (exec i (later ok r s)) := by
  cases hp : reading s.pins with
  | clear ps => exact exec_clear_continues hp h
  | rst ps =>
    obtain rfl := Host.Outcome.next.inj ((exec_rst hp).symm.trans h)
    rw [exec_rst (s := later ok r s) (reading_append_rst _ hp)]
    exact continues_of_ended rfl

end

/-- Settles O14: a wait and the run it interrupts see the same events in the same order. -/
theorem transportTimingIrrelevant : Obligations.TransportTimingIrrelevant := by
  rintro i s t ok r q h rfl
  exact exec_continues h

/-! ## The two buffers -/

/-- No action writes a buffer. -/
theorem run_buffers {w : List Action} {s : State} (hp : Pin.rst ∉ s.pins) :
    (run w s).ibuf = s.ibuf ∧ (run w s).obuf = s.obuf := by
  refine (run_induction (I := fun _ u => (u.ibuf = s.ibuf ∧ u.obuf = s.obuf) ∧ Pin.rst ∉ u.pins)
    (J := fun _ _ _ _ u => (u.ibuf = s.ibuf ∧ u.obuf = s.obuf) ∧ Pin.rst ∉ u.pins)
    (Q := fun u => u.ibuf = s.ibuf ∧ u.obuf = s.obuf)
    ?hend ?hseq ?hskip ?hxfer ?hrelay ?hwait ?hdone ?hfail ?hrst).1 w s ⟨⟨rfl, rfl⟩, hp⟩
  case hend => exact fun _ h => h.1
  case hseq => exact fun _ _ _ h => h
  case hskip => exact fun _ _ _ h _ => h
  case hxfer => exact fun _ _ _ _ _ h => h
  case hrelay => exact fun _ _ _ h _ => h
  case hwait => exact fun _ _ _ _ _ h _ => h.1
  case hdone =>
    intro _ _ eff _ u ps ⟨hm, hu⟩ ha
    rw [complete_ibuf, complete_obuf, complete_pins]
    exact ⟨hm, fun hr => hu (mem_of_arrival_done ha hr)⟩
  case hfail => exact fun _ _ _ _ _ _ h _ => h.1
  case hrst => exact fun _ _ _ _ _ _ ⟨_, hu⟩ ha => absurd (rst_mem_of_arrival ha) hu

/-- The operations that place a block in IBUF (45_frame_assembler.md R190, R201). -/
def placesBlock (i : Instr) : Prop := (∃ tp l b, i = .unwrap tp l b) ∨ ∃ p l b, i = .assembleFrame p l b

/-- Every course but that of RESET keeps the buffers that its operation does not write. -/
theorem course_buffers {i : Instr} {s t : State} (hc : Course i s t) (hp : Pin.rst ∉ s.pins) (hi : i ≠ .reset) :
    (t.ibuf = s.ibuf ∨ placesBlock i) ∧
      (t.obuf = s.obuf ∨ i = .buildDataHeader ∨ i = .buildStoppedFrame ∨ placesBlock i) := by
  have of_run {u : State} (h : u.ibuf = s.ibuf ∧ u.obuf = s.obuf) : (u.ibuf = s.ibuf ∨ placesBlock i) ∧
      (u.obuf = s.obuf ∨ i = .buildDataHeader ∨ i = .buildStoppedFrame ∨ placesBlock i) := h.imp .inl .inl
  cases hc with
  | refused r _ _ ht => subst ht; exact of_run ⟨rfl, rfl⟩
  | command b eff _ _ ht => subst ht; exact of_run (run_buffers (s := startOp i.opsel s) hp)
  | relays mask _ ht => subst ht; exact of_run (run_buffers (s := startOp i.opsel s) hp)
  | offsets w0 w1 wt _ ht => subst ht; exact of_run (run_buffers (s := startOp i.opsel s) hp)
  | applied c cfg code _ _ ht => subst ht; exact of_run (run_buffers (s := writeCfg cfg (startOp i.opsel s)) hp)
  | ended v cal calValid ibuf obuf _ hn hm _ _ ht => subst ht; exact ⟨hn, hm⟩
  | reset hr _ => exact absurd hr hi

/-- Settles O24: an operation that places no block keeps IBUF whole, and OBUF too unless it writes a header. -/
theorem bufferWriters : Obligations.BufferWriters := by
  intro i s t h hp hi hu ha
  have hb : ¬ placesBlock i := by
    rintro (⟨tp, l, b, rfl⟩ | ⟨p, l, b, rfl⟩)
    · exact hu tp l b rfl
    · exact ha p l b rfl
  rcases course_of_exec h with ⟨ps, hr, _⟩ | ⟨ps, hr, hc⟩
  · exact absurd (rst_mem_of_reading hr) hp
  · obtain ⟨hn, hm⟩ := course_buffers hc (fun hq => hp (mem_of_reading_clear hr hq)) hi
    have ibuf : t.ibuf = s.ibuf := hn.resolve_right hb
    refine ⟨fun a => by rw [ibuf], fun hd hs a => ?_⟩
    have obuf : t.obuf = s.obuf := by
      rcases hm with hm | rfl | rfl | hm
      · exact hm
      · exact absurd rfl hd
      · exact absurd rfl hs
      · exact absurd hm hb
    rw [obuf]

end Sys2Proof.Machine
end

section
/-! PROOF. The request encoding (spec/30_encoding.md R62 to R71): the decoder and the encoder are inverse to each
other on well-formed instructions, and a serialized configuration stands for the configuration. -/

namespace Sys2Proof

/-! ## The last field of a record -/

theorem takeQ_encode (q : QOperand) : takeQ (encodeQ q) = some (q, []) := by
  simpa using takeQ_append q []

theorem takeU32_encode (v : Word) : takeU32 (leBytes 4 v.toNat) = some (v, []) := by
  simpa using takeU32_append v []

theorem takeBlock_encode {len : Word} {block : List Byte} (h : blockFits len block = true) :
    takeBlock len block = some (block, []) := by
  simpa using takeBlock_append (by simpa [blockFits] using h) []

/-! ## Decoding what was encoded -/

/-- The decoder gives back every well-formed instruction that was encoded. -/
theorem decode_encode {i : Instr} (h : i.wellFormed = true) : decode (encode i) = .ok i := by
  cases i
  all_goals simp only [decode, encode, Instr.opsel, Instr.operandBytes]
  case calLoad lv => rw [takeCal_encode]; rfl
  case quantSamplerate q => rw [takeQ_encode]; rfl
  case encTriglen dl ta => simp only [bind_takeU8, takeQ_encode]; rfl
  case encOffsets r0 off0 r1 off1 src toff => simp only [bind_takeU8, bind_takeQ, takeQ_encode]; rfl
  case apply c => rw [takeCfg_encode]; rfl
  case decodeCapstate v => rw [takeU32_encode]; rfl
  case decodeTp p => rw [takeU32_encode]; rfl
  case unwrap tp len block =>
    simp only [takeU16_append, takeU32_append, Option.bind_eq_bind, Option.bind_some, takeBlock_encode h]; rfl
  case assembleFrame p len block =>
    simp only [takeU32_append, Option.bind_eq_bind, Option.bind_some, takeBlock_encode h]; rfl
  case calLookup | encVoltage | encRelays | encTrigin | encChannels | encRamlen => rfl
  case encFilter | capStart | capTrigen | capForcetrig | capQuerystate | capGetdata | buildDataHeader
    | buildStoppedFrame | getConfig | reset => rfl

/-- Settles O15: each field reader gives back what its writer wrote, operation by operation. -/
theorem decodeOfEncode : Obligations.DecodeOfEncode := fun _ => decode_encode

/-- Settles O17: each is the encoding of its instruction. -/
theorem writtenRequestsDecode : Obligations.WrittenRequestsDecode :=
  ⟨decode_encode (i := .quantSamplerate ⟨19, 200000000⟩) rfl, decode_encode (i := .encRelays 2 1 2 1 0) rfl,
    decode_encode (i := .decodeTp 0x8001) rfl, decode_encode (i := .unwrap 2 3 [7, 8, 9]) rfl,
    decode_encode (i := .encRamlen 3) rfl, decode_encode (i := .reset) rfl⟩

/-! ## Encoding what was decoded -/

theorem takeU8_iff {bs rest : List Byte} {b : Byte} : takeU8 bs = some (b, rest) ↔ bs = b :: rest :=
  ⟨takeU8_eq_some, fun h => h ▸ rfl⟩

theorem takeU16_iff {bs rest : List Byte} {v : HalfWord} :
    takeU16 bs = some (v, rest) ↔ bs = leBytes 2 v.toNat ++ rest :=
  ⟨takeU16_eq_some, fun h => h ▸ takeU16_append v rest⟩

theorem takeU32_iff {bs rest : List Byte} {v : Word} :
    takeU32 bs = some (v, rest) ↔ bs = leBytes 4 v.toNat ++ rest :=
  ⟨takeU32_eq_some, fun h => h ▸ takeU32_append v rest⟩

theorem takeQ_iff {bs rest : List Byte} {q : QOperand} : takeQ bs = some (q, rest) ↔ bs = encodeQ q ++ rest :=
  ⟨takeQ_eq_some, fun h => h ▸ takeQ_append q rest⟩

theorem takeBlock_iff {len : Word} {bs block rest : List Byte} :
    takeBlock len bs = some (block, rest) ↔ bs = block ++ rest ∧ block.length = len.toNat :=
  ⟨takeBlock_eq_some, fun ⟨h, hl⟩ => h ▸ takeBlock_append hl rest⟩

/-- A decoded request carries the operand record of its instruction, which is well-formed. -/
theorem operands_of_decode {r : Request} {i : Instr} (h : decode r = .ok i) :
    i.operandBytes = r.operands ∧ i.wellFormed = true := by
  unfold decode at h
  split at h
  case h_26 => cases h
  -- each reader in turn says what stood in front of the bytes that it leaves
  all_goals
    replace h := wholeRecord_eq_ok h
    simp only [Option.bind_eq_bind, Option.bind_eq_some_iff, Prod.exists, Option.some.injEq, Prod.mk.injEq, takeU8_iff,
      takeU16_iff, takeU32_iff, takeQ_iff, takeBlock_iff, ↓existsAndEq, and_true, true_and, List.append_nil] at h
  -- the calibration file and the configuration
  case h_1 =>
    obtain ⟨lv, hb, rfl⟩ := h
    rw [takeCal_eq_some hb, List.append_nil]
    exact ⟨rfl, rfl⟩
  case h_12 =>
    obtain ⟨c, hb, rfl⟩ := h
    rw [takeCfg_eq_some hb, List.append_nil]
    exact ⟨rfl, rfl⟩
  -- one operand, two, four, five, six
  case h_6 | h_7 | h_8 | h_18 | h_19 =>
    obtain ⟨_, hb, rfl⟩ := h
    exact ⟨hb.symm, rfl⟩
  case h_2 | h_5 | h_9 =>
    obtain ⟨_, _, hb, rfl⟩ := h
    exact ⟨hb.symm, rfl⟩
  case h_3 =>
    obtain ⟨r0, cp0, r1, cp1, hb, rfl⟩ := h
    exact ⟨hb.symm, rfl⟩
  case h_4 =>
    obtain ⟨r0, cp0, r1, cp1, src, hb, rfl⟩ := h
    exact ⟨hb.symm, rfl⟩
  case h_11 =>
    obtain ⟨r0, off0, r1, off1, src, toff, hb, rfl⟩ := h
    exact ⟨hb.symm, rfl⟩
  -- the blocks, whose length is the field before them
  case h_20 | h_23 =>
    obtain ⟨_, len, block, hb, hl, rfl⟩ := h
    exact ⟨hb.symm, beq_iff_eq.2 hl⟩
  -- no operand
  case h_10 | h_13 | h_14 | h_15 | h_16 | h_17 | h_21 | h_22 | h_24 | h_25 =>
    obtain ⟨rfl, hb⟩ := h
    exact ⟨hb.symm, rfl⟩

/-- Settles O16: the OPSEL and the operand record are both those of the instruction. -/
theorem encodeOfDecode : Obligations.EncodeOfDecode := by
  intro r i h
  obtain ⟨hb, hw⟩ := operands_of_decode h
  refine ⟨?_, hw⟩
  rw [encode, Machine.opsel_of_decode h, hb]

/-! ## Reserved OPSELs -/

/-- A request whose OPSEL is none of the operation map's is no instruction (30_encoding.md R63). -/
theorem decode_reserved {r : Request}
    (h : r.opsel.toNat ∉ [0x01, 0x02, 0x10, 0x11, 0x12, 0x13, 0x14, 0x15, 0x16, 0x17, 0x18, 0x1F, 0x20, 0x21, 0x22,
      0x23, 0x24, 0x28, 0x30, 0x31, 0x32, 0x33, 0x34, 0x3E, 0x3F]) :
    decode r = .error (.reservedOpsel r.opsel) := by
  unfold decode
  split
  case h_26 => rfl
  all_goals
    rename_i hop
    exact absurd (by rw [hop]; decide) h

end Sys2Proof

namespace Sys2Proof.Machine

/-! ## Rationals and configurations as operands -/

/-- A rational that fits the fields of a Q is read back from its operand (30_encoding.md R71). -/
theorem qValue_ofRat {q : Rat} (h : fitsQ q) : qValue? (.ofRat q) = some q := by
  obtain ⟨hlo, hhi, hden⟩ := h
  have hd : (BitVec.ofNat 64 q.den).toNat = q.den := Nat.mod_eq_of_lt hden
  have hn : (BitVec.ofInt 64 q.num).toInt = q.num := by
    rw [BitVec.toInt_ofInt]
    exact Int.bmod_eq_of_le (by omega) (by omega)
  have hne : BitVec.ofNat 64 q.den ≠ 0 := fun h0 => q.den_nz (by rw [← hd, h0]; rfl)
  simp only [qValue?, QOperand.ofRat, if_neg hne, hn, hd, Rat.mkRat_self]

theorem qPositive_ofRat {q : PosRat} (h : fitsQ q.val) : qPositive? (.ofRat q.val) = some q := by
  simp only [qPositive?, qValue_ofRat h, Option.bind_some, dif_pos q.pos]

/-- A serialized configuration is read back (30_encoding.md R64, R70, R71). -/
theorem configOperand_ofConfig {cfg : InstrumentConfig} (h0 : fitsQ cfg.ch0.offset)
    (h1 : fitsQ cfg.ch1.offset) (ht : fitsQ cfg.trigger.offset)
    (hb : fitsQ cfg.timeBase.val) (ha : fitsQ cfg.triggerAddress) :
    configOperand (.ofConfig cfg) = .ok cfg := by
  simp only [configOperand, CfgOperand.ofConfig, Range.ofCode_code, Coupling.ofCode_code, TrigSource.ofCode_code,
    Slope.ofCode_code, ChanSel.ofCode_code, DataLength.ofCode_code, qValue_ofRat h0, qValue_ofRat h1, qValue_ofRat ht,
    qValue_ofRat ha, qPositive_ofRat hb, field_some]
  rfl

/-- A record that is read has no bad field. -/
theorem firstBad_of_ok {α : Type} {e : Except FaultReason α} {fs : List (Nat × Bool)} {a : α}
    (h : verdict e = checkOf fs) (he : e = .ok a) : firstBad fs = none := by
  cases hb : firstBad fs with
  | none => rfl
  | some off => cases (bad_of_check h hb).symm.trans he

/-- Settles O60: the expansions are definitions; a configuration that is read back from its serialized form is denoted
by it, without a bad field. -/
theorem pseudoOperations : Obligations.PseudoOperations := by
  refine ⟨rfl, rfl, fun _ => rfl, fun cfg h0 h1 ht hb ha => ?_⟩
  have read := configOperand_ofConfig h0 h1 ht hb ha
  exact ⟨configOperand_ok read, firstBad_of_ok (config_check _) read⟩

end Sys2Proof.Machine
end

section
/-! PROOF. The operand checks (spec/30_encoding.md R63, R65, R71; spec/60_exceptions.md R210 to R215): the first bad
field is reported before anything else happens, BAD_OPERAND is raised for nothing else, and every well-formed request
has a next state. -/

namespace Sys2Proof.Machine

/-! ## A bad field -/

/-- Fault entry at the start of an operation leaves what a refused operation leaves, whatever the fault. -/
theorem raise_startOp (r : FaultReason) (op : Byte) (s : State) :
    raise r (startOp op s) = refusedBy op r.code.code r.info s := rfl

section
variable {α β : Type} {op : Byte} {checks : State → Except FaultReason α}
  {body : α → State → Host.Outcome State Fault Refusal} {s : State} {ps : List Pin} {fs : List (Nat × Bool)}
  {off : Nat}

theorem perform_badOperand (hp : reading s.pins = .clear ps)
    (hc : checks (startOp op { s with pins := ps }) = .error (badOperand off)) :
    perform op checks body s = .next (refusedBy op 3 (BitVec.ofNat 32 off) { s with pins := ps }) := by
  rw [perform_error hp hc, raise_startOp]
  rfl

/-- An operation whose checks are those of its fields reports the first bad one. -/
theorem perform_firstBad {e : Except FaultReason α} (hp : reading s.pins = .clear ps)
    (hv : verdict e = checkOf fs) (hb : firstBad fs = some off) :
    perform op (fun _ => e) body s = .next (refusedBy op 3 (BitVec.ofNat 32 off) { s with pins := ps }) :=
  perform_badOperand hp (bad_of_check hv hb)

/-- So does one whose checks begin with those of its fields. -/
theorem perform_firstBad_bind {e : Except FaultReason β} {f : State → β → Except FaultReason α}
    (hp : reading s.pins = .clear ps) (hv : verdict e = checkOf fs) (hb : firstBad fs = some off) :
    perform op (fun t => e >>= f t) body s = .next (refusedBy op 3 (BitVec.ofNat 32 off) { s with pins := ps }) :=
  perform_badOperand hp (by rw [bad_of_check hv hb]; rfl)

end

/-- Every operation reports its first bad field, before any other check. -/
theorem reportsBadOperand_all (i : Instr) : reportsBadOperand i := by
  intro s ps off hp hb
  cases i
  all_goals rw [exec]
  case calLookup c r => exact perform_firstBad_bind hp (lookup_check c r) hb
  case encVoltage r0 cp0 r1 cp1 => exact perform_firstBad hp (voltage_check r0 cp0 r1 cp1) hb
  case encRelays r0 cp0 r1 cp1 src => exact perform_firstBad hp (relay_check r0 cp0 r1 cp1 src) hb
  case encTrigin src slope => exact perform_firstBad hp (trigin_check src slope) hb
  case encChannels sel => exact perform_firstBad hp (channels_check sel) hb
  case encRamlen dl => exact perform_firstBad hp (ramlen_check dl) hb
  case quantSamplerate q => exact perform_firstBad_bind hp (rate_check q) hb
  case encTriglen dl ta => exact perform_firstBad hp (triglen_check dl ta) hb
  case encOffsets r0 off0 r1 off1 src toff =>
    exact perform_firstBad_bind hp (offset_check r0 off0 r1 off1 src toff) hb
  case apply c => exact perform_firstBad_bind hp (config_check c) hb
  case decodeTp p => exact perform_firstBad hp (pointer_check p) hb
  case assembleFrame p len block => exact perform_firstBad_bind hp (pointer_check p) hb
  case calLoad | encFilter | capStart | capTrigen | capForcetrig | capQuerystate | capGetdata | decodeCapstate | unwrap
    | buildDataHeader | buildStoppedFrame | getConfig | reset => cases hb

/-- Settles O19: the checks of each operation begin with those of its fields, in their order. -/
theorem firstBadFieldReported : Obligations.FirstBadFieldReported := reportsBadOperand_all

/-! ## No bad field -/

/-- All that a run can leave in the fault record: what stood there, TRANSPORT, or the clear record of RST. -/
theorem run_fault_cases (w : List Action) (s : State) :
    (run w s).fault = s.fault ∨ (run w s).fault.code = 1 ∨ (run w s).fault = .none := by
  refine (run_induction (I := fun _ u => u.fault = s.fault) (J := fun _ _ _ _ u => u.fault = s.fault)
    (Q := fun u => u.fault = s.fault ∨ u.fault.code = 1 ∨ u.fault = .none)
    ?hend ?hseq ?hskip ?hxfer ?hrelay ?hwait ?hdone ?hfail ?hrst).1 w s rfl
  case hend => exact fun _ h => .inl h
  case hseq => exact fun _ _ _ h => h
  case hskip => exact fun _ _ _ h _ => h
  case hxfer => exact fun _ _ _ _ _ h => h
  case hrelay => exact fun _ _ _ h _ => h
  case hwait => exact fun _ _ _ _ _ h _ => .inl h
  case hdone => exact fun _ _ eff _ u ps h _ => (complete_fault u eff ps).trans h
  case hfail => exact fun _ _ _ _ _ _ _ _ => .inr (.inl rfl)
  case hrst => exact fun _ _ _ _ _ _ _ _ => .inr (.inr rfl)

/-- A run leaves BAD_OPERAND in the fault record only where it stood there before. -/
theorem run_badOperand {w : List Action} {s : State} (h : (run w s).fault.code = 3) : (run w s).fault = s.fault := by
  rcases run_fault_cases w s with hf | hf | hf
  · exact hf
  · rw [hf] at h; cases h
  · rw [hf] at h; cases h

theorem badOperand_of_code {c : FaultCode} (h : c.code = 3) : c = .badOperand := by
  cases c
  case badOperand => rfl
  all_goals cases h

/-- Settles O20: fault entry with code 3 needs a bad field, a run raises only TRANSPORT, and a reset clears the
record. -/
theorem goodOperandsNeverBadOperand : Obligations.GoodOperandsNeverBadOperand := by
  intro i s t good h h3
  rcases course_of_exec h with ⟨ps, -, rfl⟩ | ⟨ps, -, hc⟩
  · cases h3
  · cases hc with
    | refused r _ hb ht => subst ht; exact absurd good (hb (badOperand_of_code h3))
    | command b eff _ _ ht => subst ht; exact run_badOperand h3
    | relays mask _ ht => subst ht; exact run_badOperand h3
    | offsets w0 w1 wt _ ht => subst ht; exact run_badOperand h3
    | applied c cfg code _ _ ht => subst ht; exact run_badOperand h3
    | ended v cal calValid ibuf obuf _ _ _ _ _ ht => subst ht; rfl
    | reset _ ht => subst ht; cases h3

/-! ## No stop -/

/-- An operation whose body gives a next state wherever its checks pass has a next state. -/
theorem perform_total {α : Type} {op : Byte} {checks : State → Except FaultReason α}
    {body : α → State → Host.Outcome State Fault Refusal} (s : State)
    (hb : ∀ a t, checks t = .ok a → ∃ u, body a t = .next u) : ∃ u, perform op checks body s = .next u := by
  cases hp : reading s.pins with
  | rst ps => exact ⟨_, perform_rst hp⟩
  | clear ps =>
    cases hc : checks (startOp op { s with pins := ps }) with
    | error r => exact ⟨_, perform_error hp hc⟩
    | ok a => rw [perform_ok hp hc]; exact hb a _ hc

theorem captureOp_total (op opc : Byte) (s : State) : ∃ t, captureOp op opc s = .next t :=
  perform_total s fun _ _ _ => ⟨_, rfl⟩

/-- A block that passes the length check has the 20480 bytes of its frame (45_frame_assembler.md R191). -/
theorem block_length {len : Word} {block : List Byte} {u : Unit} (hw : blockFits len block = true)
    (h : requireBlock len = .ok u) : block.length = 20480 := by
  have hl : len = 20480 := beq_iff_eq.1 (require_eq_ok h)
  rw [beq_iff_eq.1 hw, hl]
  rfl

/-- Settles O22: only the bodies that use the buffers can stop, and they do not on a block of 20480 bytes. -/
theorem wellFormedNeverStops : Obligations.WellFormedNeverStops := by
  intro i s hw
  cases i
  all_goals simp only [exec]
  case unwrap tp len block =>
    refine perform_total s fun a t hc => ?_
    obtain ⟨_, hlen, -⟩ := bind_eq_ok hc
    rw [unwrapBody_ok tp t (block_length hw hlen)]
    exact ⟨_, rfl⟩
  case assembleFrame p len block =>
    refine perform_total s fun tp t hc => ?_
    obtain ⟨_, -, hc⟩ := bind_eq_ok hc
    obtain ⟨_, hlen, -⟩ := bind_eq_ok hc
    simp only [dataHeaderBody_ok, bind, Except.bind, unwrapBody_ok tp _ (block_length hw hlen)]
    exact ⟨_, rfl⟩
  case buildDataHeader =>
    refine perform_total s fun _ t _ => ?_
    rw [dataHeaderBody_ok]
    exact ⟨_, rfl⟩
  case buildStoppedFrame =>
    refine perform_total s fun _ t _ => ?_
    rw [stoppedHeaderBody_ok]
    exact ⟨_, rfl⟩
  case reset =>
    cases hp : reading s.pins with
    | rst ps => exact ⟨_, unlessRst_rst hp⟩
    | clear ps => exact ⟨_, unlessRst_clear hp⟩
  case calLoad | calLookup | decodeCapstate | decodeTp | getConfig | encVoltage | encRelays | encTrigin | encChannels
    | encRamlen | quantSamplerate | encTriglen | encFilter | encOffsets | apply =>
    exact perform_total s fun _ _ _ => ⟨_, rfl⟩
  case capStart | capTrigen | capForcetrig | capQuerystate | capGetdata => exact captureOp_total _ _ s

/-! ## A reserved OPSEL -/

/-- Settles O13: the request is taken, decodes to no instruction, and raises ILLEGAL_OP. -/
theorem reservedOpselFaults : Obligations.ReservedOpselFaults := by
  intro s r rs ps qs hb hp hq hf hr hop
  have taken : fetch s = .settled (unlessRst .next (fun t => .next (raise ⟨.illegalOp, r.opsel.setWidth 32⟩ t))
      (startOp r.opsel { s with reqs := rs, pins := ps })) := by
    rw [fetch_request hb hp hr, accept_taken (s := { s with reqs := rs, pins := ps }) (.inl hf), decode_reserved hop]
  rw [step_settled taken, unlessRst_clear (s := startOp r.opsel { s with reqs := rs, pins := ps }) hq,
    BitVec.ofNat_toNat]
  exact congrArg Host.Outcome.next (raise_startOp _ r.opsel { s with reqs := rs, pins := qs })

/-! ## Rational operands -/

/-- Two encodings of one rational are read as one value (30_encoding.md R71). -/
theorem qValue_congr {p q : QOperand} (hp : p.den ≠ 0) (hq : q.den ≠ 0) (h : qVal p = qVal q) :
    qValue? p = qValue? q := by
  simp only [qValue?, if_neg hp, if_neg hq, mkRat_qVal, h]

theorem qPositive_congr {p q : QOperand} (h : qValue? p = qValue? q) : qPositive? p = qPositive? q := by
  simp only [qPositive?, h]

/-- APPLY sees its operand only through the configuration that is read from it. -/
theorem exec_apply_congr {c d : CfgOperand} (h : configOperand c = configOperand d) (s : State) :
    exec (.apply c) s = exec (.apply d) s := by
  have checks : validate c = validate d := funext fun t => by rw [validate, validate, h]
  rw [exec, exec, execApply, execApply, checks]

theorem toNat_append_byte {n : Nat} (x : BitVec n) (b : Byte) : (x ++ b).toNat = x.toNat * 256 + b.toNat := by
  rw [BitVec.toNat_append, ← Nat.shiftLeft_add_eq_or_of_lt b.isLt, Nat.shiftLeft_eq]

/-- Eight bytes are the little-endian field of the word in which the last of them stands highest. -/
theorem leBytes_eight (b0 b1 b2 b3 b4 b5 b6 b7 : Byte) :
    leBytes 8 (b7 ++ b6 ++ b5 ++ b4 ++ b3 ++ b2 ++ b1 ++ b0).toNat = [b0, b1, b2, b3, b4, b5, b6, b7] := by
  have value : (b7 ++ b6 ++ b5 ++ b4 ++ b3 ++ b2 ++ b1 ++ b0).toNat = leNat [b0, b1, b2, b3, b4, b5, b6, b7] := by
    simp only [toNat_append_byte, leNat]
    omega
  rw [value]
  exact leBytes_leNat [b0, b1, b2, b3, b4, b5, b6, b7]

/-- Settles O18: the bytes are those of the encoded operand, a zero denominator is the first bad field, and an
operation reads an operand through its value alone. -/
theorem rationalOperands : Obligations.RationalOperands := by
  refine ⟨fun b => ?_, fun q s ps hp hq => ?_, fun p q hp hq hv => ?_⟩
  · refine ⟨⟨b 7 ++ b 6 ++ b 5 ++ b 4 ++ b 3 ++ b 2 ++ b 1 ++ b 0,
      b 15 ++ b 14 ++ b 13 ++ b 12 ++ b 11 ++ b 10 ++ b 9 ++ b 8⟩, ?_, rfl, rfl⟩
    have bytes : List.ofFn b = encodeQ ⟨b 7 ++ b 6 ++ b 5 ++ b 4 ++ b 3 ++ b 2 ++ b 1 ++ b 0,
        b 15 ++ b 14 ++ b 13 ++ b 12 ++ b 11 ++ b 10 ++ b 9 ++ b 8⟩ := by
      rw [encodeQ, leBytes_eight, leBytes_eight]
      rfl
    rw [bytes]
    exact decode_encode (i := .quantSamplerate _) rfl
  · exact reportsBadOperand_all (.quantSamplerate q) s ps 0 hp (by simp [operandFields, firstBad, hq])
  · have value := qValue_congr hp hq hv
    have positive := qPositive_congr value
    refine ⟨fun s => ?_, fun dl s => ?_, fun r0 r1 o src t s => ?_, fun r0 r1 o src t s => ?_,
      fun r0 r1 o src t s => ?_, fun c s => exec_apply_congr ?_ s, fun c s => exec_apply_congr ?_ s,
      fun c s => exec_apply_congr ?_ s, fun c s => exec_apply_congr ?_ s, fun c s => exec_apply_congr ?_ s⟩
    · simp only [exec, execQuantSamplerate, rateOperand, value]
    · simp only [exec, execEncTriglen, triglenOperands, value]
    all_goals simp only [exec, execEncOffsets, offsetOperands, configOperand, value, positive]

end Sys2Proof.Machine
end

section
/-! PROOF. The device commands (spec/41_command_encoder.md R100 to R115, spec/44_capture_control.md R170 to R175): each
is BEGIN and one bulk write, and what the transport answers to them decides the outcome. -/

namespace Sys2Proof.Machine

/-! ## BEGIN and a bulk write -/

section
variable {op : Byte} {bs : List Byte} {s : State} {ps qs rest : List Pin}

theorem deviceCommand_params (bs : List Byte) (eff : Effect) :
    deviceCommand params bs eff = [.xfer .beginCmd beginBytes .none, .xfer .bulk (bulk bs) eff] := rfl

/-- Both transfers succeed: OK(2). -/
theorem run_command_done (h1 : arrival s.pins = .done true qs) (h2 : arrival qs = .done true rest) :
    run (deviceCommand params bs .none) (startOp op s) = emitted op [beginBytes] (bulk bs) rest s := by
  rw [deviceCommand_params, run_xfer_done (s := startOp op s) h1, run_xfer_done (ps := rest) h2, run_nil]
  simp only [emitted, complete, applyEffect, offer, startOp, post, List.append_assoc]
  rfl

/-- BEGIN fails. -/
theorem run_command_begin_fails (h : arrival s.pins = .done false rest) :
    run (deviceCommand params bs .none) (startOp op s) = brokenAt op 1 [] beginBytes rest s := by
  rw [deviceCommand_params, run_xfer_fail (s := startOp op s) h]
  rfl

/-- The bulk write fails after BEGIN's success. -/
theorem run_command_bulk_fails (h1 : arrival s.pins = .done true qs) (h2 : arrival qs = .done false rest) :
    run (deviceCommand params bs .none) (startOp op s) = brokenAt op 4 [beginBytes] (bulk bs) rest s := by
  rw [deviceCommand_params, run_xfer_done (s := startOp op s) h1, run_xfer_fail (ps := rest) h2]
  simp only [brokenAt, raise, faultRecord, complete, applyEffect, offer, startOp, List.append_assoc]
  rfl

/-- An operation that emits one device command without an effect has the four outcomes of one. -/
theorem isDeviceCommand_of_exec {i : Instr}
    (h : ∀ s ps, reading s.pins = .clear ps →
      exec i s = emit (deviceCommand params bs .none) (startOp op { s with pins := ps })) :
    isDeviceCommand op i bs := by
  intro s ps
  refine ⟨?_, ?_, ?_, ?_⟩
  · rintro ⟨p, hp, q, h1, r, h2, rfl⟩
    rw [h s p hp, emit, run_command_done (s := { s with pins := p }) h1 h2]
    rfl
  · rintro ⟨p, hp, q, h1, rfl⟩
    rw [h s p hp, emit, run_command_begin_fails (s := { s with pins := p }) h1]
    rfl
  · rintro ⟨p, hp, q, h1, r, h2, rfl⟩
    rw [h s p hp, emit, run_command_bulk_fails (s := { s with pins := p }) h1 h2]
    rfl
  · intro hp ha
    rw [h s ps hp, emit, deviceCommand_params, run_xfer_nothing (s := startOp op { s with pins := ps }) ha]
    exact ⟨_, _, rfl⟩

end

/-! ## Commands with operands -/

/-- An operation whose checks are those of its fields, and whose body emits `bs` for whatever operands they read, is a
checked command. -/
theorem isCheckedCommand_of_perform {α : Type} {i : Instr} {bs : List Byte} {e : Except FaultReason α}
    {payload : α → List Byte} (hv : verdict e = checkOf (operandFields i)) (hbs : ∀ v, e = .ok v → payload v = bs)
    (hi : ∀ s, exec i s =
      perform i.opsel (fun _ => e) (fun v => emit (deviceCommand params (payload v) .none)) s) :
    isCheckedCommand i bs := by
  refine ⟨fun good => ?_, reportsBadOperand_all i⟩
  obtain ⟨v, hok⟩ := good_of_check hv good
  refine isDeviceCommand_of_exec fun s ps hp => ?_
  rw [hi, perform_ok (checks := fun _ => e) hp hok, hbs v hok]

/-- Settles O29: the payload holds the codes of the operands, which are the bytes that were read. -/
theorem encVoltageCommand : Obligations.EncVoltageCommand := by
  intro r0 cp0 r1 cp1
  refine isCheckedCommand_of_perform (voltage_check r0 cp0 r1 cp1) (fun v hv => ?_) (fun _ => rfl)
  obtain ⟨rfl, rfl, rfl, rfl⟩ := voltageOperands_ok hv
  rfl

/-- Settles O30: the payload ends with the codes of the source and the slope. -/
theorem encTriginCommand : Obligations.EncTriginCommand := by
  intro src slope
  refine isCheckedCommand_of_perform (trigin_check src slope) (fun v hv => ?_) (fun _ => rfl)
  obtain ⟨rfl, rfl⟩ := triginOperands_ok hv
  rfl

/-- Settles O31: the payload holds the code of the selection. -/
theorem encChannelsCommand : Obligations.EncChannelsCommand := by
  intro sel
  refine isCheckedCommand_of_perform (channels_check sel) (fun v hv => ?_) (fun _ => rfl)
  obtain rfl := channelsOperand_ok hv
  rfl

/-- Settles O32: the payload holds the code of the data length. -/
theorem encRamlenCommand : Obligations.EncRamlenCommand := by
  intro dl
  refine isCheckedCommand_of_perform (ramlen_check dl) (fun v hv => ?_) (fun _ => rfl)
  obtain rfl := ramlenOperand_ok hv
  rfl

/-! ## Commands without operands -/

/-- An operation without checks that emits `bs` is one device command. -/
theorem isDeviceCommand_of_noChecks {op : Byte} {i : Instr} {bs : List Byte}
    (hi : ∀ s, exec i s = perform op noChecks (fun _ => emit (deviceCommand params bs .none)) s) :
    isDeviceCommand op i bs :=
  isDeviceCommand_of_exec fun s _ hp => (hi s).trans (perform_noChecks hp)

/-- Settles O33: the payload is a constant. -/
theorem encFilterCommand : Obligations.EncFilterCommand := isDeviceCommand_of_noChecks fun _ => rfl

/-- Settles O34: the payload is the command's opcode and one zero byte. -/
theorem captureCommands : Obligations.CaptureCommands :=
  ⟨isDeviceCommand_of_noChecks fun _ => rfl, isDeviceCommand_of_noChecks fun _ => rfl,
    isDeviceCommand_of_noChecks fun _ => rfl, isDeviceCommand_of_noChecks fun _ => rfl,
    isDeviceCommand_of_noChecks fun _ => rfl⟩

/-! ## The trigger-length window -/

/-- The four bytes of le32, each cut out of the word (00_scope.md R14). -/
theorem le32_eq_littleEndian (w : Word) : le32 w = littleEndian w := by
  simp only [le32, littleEndian, leBytes, List.cons.injEq, and_true]
  refine ⟨?_, ?_, ?_, ?_⟩ <;> apply BitVec.eq_of_toNat_eq <;>
    simp [BitVec.extractLsb'_toNat, Nat.shiftRight_eq_div_pow, Nat.div_div_eq_div_mul]

/-- A bound masked to 19 bits, as a word (43_config_translator.md R145). -/
theorem setWidth_ofInt_19 (x : Int) : (BitVec.ofInt 19 x).setWidth 32 = BitVec.ofInt 32 (x % 2 ^ 19) := by
  apply BitVec.eq_of_toNat_eq
  simp only [BitVec.toNat_setWidth, BitVec.toNat_ofInt]
  omega

theorem totalOf_code (dl : DataLength) : totalOf dl.code = (totalSamples dl : Int) := by cases dl <;> rfl

theorem samplesOf_code (dl : DataLength) (ta : Rat) : samplesOf dl.code ta = windowSamples dl ta := by
  rw [samplesOf, totalOf_code]
  simp only [windowSamples, clampRat, Int.cast_natCast]
  rfl

/-- SET_TRIGLEN of operands that were read is the command of R83 with the bounds of R145. -/
theorem setTriglen_eq_triglenBytes (dl : DataLength) (ta : Rat) :
    setTriglen params dl ta = triglenBytes dl.code ta := by
  simp only [setTriglen, triglenBytes, le32_eq_littleEndian, windowLow, windowHigh, setWidth_ofInt_19, windowLowRaw,
    windowHighRaw, totalOf_code, samplesOf_code]
  rfl

/-- Settles O39: the two bounds of the payload are those of the data length and the address that were read. -/
theorem encTriglenCommand : Obligations.EncTriglenCommand := by
  intro dl ta
  refine isCheckedCommand_of_perform (triglen_check dl ta) (fun v hv => ?_) (fun _ => rfl)
  obtain ⟨rfl, -, hta⟩ := triglenOperands_ok hv
  rw [setTriglen_eq_triglenBytes, hta]

end Sys2Proof.Machine
end

section
/-! PROOF. Calibration (spec/40_calibration.md R90 to R94): a load replaces the whole file by its operand and the
override, and a lookup reads one cell. -/

namespace Sys2Proof.Machine

/-! ## The cells of a file -/

theorem calRowGet_calRowSet (row : CalRow) (r q : Range) (v : CalPair) :
    calRowGet (calRowSet row r v) q = if q = r then v else calRowGet row q := by
  cases r <;> cases q <;> rfl

/-- A cell of a file after a write to the same or to another cell. -/
theorem calGet_calSet (cal : CalFile) (c d : Channel) (r q : Range) (v : CalPair) :
    calGet (calSet cal c r v) d q = if d = c ∧ q = r then v else calGet cal d q := by
  cases c <;> cases d <;> simp [calSet, calGet, calRowGet_calRowSet]

/-- A loaded file holds its operand's cells, but for the cell of the override (40_calibration.md R91). -/
theorem calGet_overridden (lv : CalFile) (c : Channel) (r : Range) :
    calGet (overridden params lv) c r = if c = .ch1 ∧ r = .v1 then Config.calOverride else calGet lv c r :=
  calGet_calSet lv .ch1 c .v1 r Config.calOverride

/-- The nine cells of one channel, in range order. -/
def rowOf (f : Range → CalPair) : CalRow :=
  ⟨f .v5, f .v2, f .v1, f .mv500, f .mv200, f .mv100, f .mv50, f .mv20, f .mv10⟩

theorem calRowGet_rowOf (f : Range → CalPair) (r : Range) : calRowGet (rowOf f) r = f r := by cases r <;> rfl

/-! ## The operand of CAL_LOAD -/

theorem leBytes_two (b0 b1 : Byte) : leBytes 2 (b1 ++ b0).toNat = [b0, b1] := by
  have value : (b1 ++ b0).toNat = leNat [b0, b1] := by
    simp only [toNat_append_byte, leNat]
    omega
  rw [value]
  exact leBytes_leNat [b0, b1]

/-- The pair whose four bytes stand at `n` in an operand record: min, then max, each little-endian. -/
def pairAt (b : Fin 72 → Byte) (n : Fin 72) : CalPair := ⟨b (n + 1) ++ b n, b (n + 3) ++ b (n + 2)⟩

theorem encodePair_pairAt (b : Fin 72 → Byte) (n : Fin 72) :
    encodePair (pairAt b n) = [b n, b (n + 1), b (n + 2), b (n + 3)] := by
  simp only [encodePair, pairAt, leBytes_two, List.cons_append, List.nil_append]

/-- Where an operand record holds the pair of a channel and a range: its entries `2 × (9c + r)` and the next, of two
bytes each (40_calibration.md R90). -/
def offsetOf (c : Channel) (r : Range) : Fin 72 := Fin.ofNat 72 (4 * (9 * c.code.toNat + r.code.toNat))

theorem offsetOf_eq {c : Channel} {r : Range} {k : Fin 72} (hk : k.val = 4 * (9 * c.code.toNat + r.code.toNat)) :
    offsetOf c r = k := by rw [offsetOf, ← hk, Fin.ofNat_val_eq_self]

/-- The file that 72 operand bytes spell. -/
def fileOf (b : Fin 72 → Byte) : CalFile :=
  ⟨rowOf fun r => pairAt b (offsetOf .ch1 r), rowOf fun r => pairAt b (offsetOf .ch2 r)⟩

theorem calGet_fileOf (b : Fin 72 → Byte) (c : Channel) (r : Range) :
    calGet (fileOf b) c r = pairAt b (offsetOf c r) := by
  cases c <;> exact calRowGet_rowOf _ r

/-- Every 72 bytes are the operand record of the file that they spell. -/
theorem ofFn_eq_operandBytes (b : Fin 72 → Byte) : List.ofFn b = Instr.operandBytes (.calLoad (fileOf b)) := by
  simp only [Instr.operandBytes, fileOf, rowOf, encodeRow, encodePair_pairAt]
  rfl

theorem decode_calLoad_ofFn (b : Fin 72 → Byte) : decode ⟨0x01, List.ofFn b⟩ = .ok (.calLoad (fileOf b)) := by
  rw [ofFn_eq_operandBytes]
  exact decode_encode (i := .calLoad (fileOf b)) rfl

/-! ## CAL_LOAD -/

section
variable {s : State} {ps : List Pin}

theorem exec_calLoad_clear (lv : CalFile) (hp : reading s.pins = .clear ps) :
    exec (.calLoad lv) s =
      .next (ended 0x01 (.count 0) { s with cal := overridden params lv, calValid := true, pins := ps }) := by
  rw [exec, execCalLoad, perform_noChecks hp]
  rfl

theorem exec_calLoad_rst (lv : CalFile) (hp : reading s.pins = .rst ps) :
    exec (.calLoad lv) s = .next (resetRegs { s with pins := ps }) := by
  rw [exec, execCalLoad, perform_rst hp]

/-! ## CAL_LOOKUP -/

theorem lookupOperands_code (c : Channel) (r : Range) : lookupOperands c.code r.code = .ok (c, r) := by
  simp only [lookupOperands, Channel.ofCode_code, Range.ofCode_code, field_some]
  rfl

/-- With the file loaded, a lookup answers the cell of its channel and range. -/
theorem exec_calLookup_loaded (c : Channel) (r : Range) (hp : reading s.pins = .clear ps) (hv : s.calValid = true) :
    exec (.calLookup c.code r.code) s = .next (ended 0x02 (.pair (calGet s.cal c r)) { s with pins := ps }) := by
  have loaded := requireCal_loaded (s := startOp 0x02 { s with pins := ps }) hv
  rw [exec, execCalLookup, perform_ok (a := (c, r)) hp (by rw [lookupOperands_code, loaded]; rfl)]
  rfl

/-- Without it, good operands raise CAL_NOT_LOADED. -/
theorem exec_calLookup_missing (c : Channel) (r : Range) (hp : reading s.pins = .clear ps) (hv : s.calValid = false) :
    exec (.calLookup c.code r.code) s = .next (refusedBy 0x02 4 0 { s with pins := ps }) := by
  have missing := requireCal_missing (s := startOp 0x02 { s with pins := ps }) hv
  rw [exec, execCalLookup,
    perform_error (r := ⟨.calNotLoaded, 0⟩) hp (by rw [lookupOperands_code, missing]; rfl), raise_startOp]
  rfl

end

/-! ## The statements -/

/-- Settles O26: the bytes are the record of the file they spell, and the load stores that file with the override. -/
theorem calLoadReplacesFile : Obligations.CalLoadReplacesFile := by
  intro b s ps hp
  refine ⟨fileOf b, overridden params (fileOf b), decode_calLoad_ofFn b, exec_calLoad_clear _ hp, fun c r k hk => ?_⟩
  rw [calGet_overridden, calGet_fileOf, offsetOf_eq hk, pairAt]

/-- Settles O28: the operand fields are checked before CAL_VALID, and good operands read the cell. -/
theorem calLookupReturnsPair : Obligations.CalLookupReturnsPair := by
  intro s ps hp
  refine ⟨fun c r hv => exec_calLookup_loaded c r hp hv, fun c r hv => exec_calLookup_missing c r hp hv,
    fun c r hc => ?_, fun c r hc hr => ?_⟩
  · exact reportsBadOperand_all (.calLookup c r) s ps 0 hp (by simp [operandFields, firstBad, hc])
  · exact reportsBadOperand_all (.calLookup c r) s ps 1 hp (by simp [operandFields, firstBad, hc, hr])

/-- Settles O27: the second load overwrites all that the first one wrote, and so does RST before it. -/
theorem calLoadTwice : Obligations.CalLoadTwice := by
  intro a b s ps hp
  refine ⟨_, exec_calLoad_clear a hp, ?_⟩
  cases hq : reading ps with
  | clear qs =>
    rw [exec_calLoad_clear (ps := qs) b hq, exec_calLoad_clear (s := { s with pins := ps }) b hq]
    rfl
  | rst qs =>
    rw [exec_calLoad_rst (ps := qs) b hq, exec_calLoad_rst (s := { s with pins := ps }) b hq]
    rfl

end Sys2Proof.Machine
end

section
/-! PROOF. The transfer stream (spec/30_encoding.md R72, R73; spec/41_command_encoder.md R102): the actions of every
operation keep BEGIN before each bulk write (`streamActions`), and a run of such actions only ever extends a stream of
that form (`StreamOk`). -/

namespace Sys2Proof.Machine

/-! ## Streams -/

/-- The transfer is BEGIN, told by its request code (30_encoding.md R74). -/
def isBegin : Transfer → Bool
  | .controlOut r _ _ _ => r == 0xB3
  | .bulkOut _ _ => false

/-- A BEGIN has just come after the stream. -/
def afterBegin (xs : List Transfer) : Bool := xs.foldl (fun _ x => isBegin x) false

/-- A stream in the form of R72 and R102. -/
structure StreamOk (xs : List Transfer) : Prop where
  paired : beginsPaired false xs = true
  known : ∀ x ∈ xs, knownTransfer x = true

theorem beginsPaired_cons (b : Bool) (x : Transfer) (xs : List Transfer) :
    beginsPaired b (x :: xs) = (beginsPaired b [x] && beginsPaired (isBegin x) xs) := by
  cases x <;> simp only [beginsPaired, isBegin, Bool.and_true]

theorem beginsPaired_append_singleton (x : Transfer) (xs : List Transfer) (b : Bool) :
    beginsPaired b (xs ++ [x]) = (beginsPaired b xs && beginsPaired (xs.foldl (fun _ y => isBegin y) b) [x]) := by
  induction xs generalizing b with
  | nil => rfl
  | cons y ys ih =>
    rw [List.cons_append, beginsPaired_cons, ih, beginsPaired_cons b y ys, Bool.and_assoc, List.foldl_cons]

theorem afterBegin_append_singleton (xs : List Transfer) (x : Transfer) : afterBegin (xs ++ [x]) = isBegin x := by
  simp only [afterBegin, List.foldl_append, List.foldl_cons, List.foldl_nil]

theorem streamOk_nil : StreamOk [] := ⟨rfl, nofun⟩

theorem StreamOk.append_singleton {xs : List Transfer} {x : Transfer} (h : StreamOk xs) (hk : knownTransfer x = true)
    (hp : beginsPaired (afterBegin xs) [x] = true) : StreamOk (xs ++ [x]) where
  paired := by rw [beginsPaired_append_singleton, h.paired]; exact hp
  known := by
    intro y hy
    rcases List.mem_append.1 hy with hy | hy
    · exact h.known y hy
    · rw [List.mem_singleton.1 hy]; exact hk

/-! ## Actions -/

/-- The actions go on with a stream of known transfers in pairs; the flag says that a BEGIN has just come. -/
def streamActions : Bool → List Action → Prop
  | _, [] => True
  | b, .seq _ :: w => streamActions b w
  | b, .xfer _ x _ :: w => (knownTransfer x = true ∧ beginsPaired b [x] = true) ∧ streamActions (isBegin x) w
  | b, .relays _ :: w => b = false ∧ streamActions false w

theorem known_bulk {bs : List Byte} (h : bulkLengths.contains (bs.headD 0, bs.length) = true) :
    knownTransfer (bulk bs) = true := by rw [bulk, knownTransfer, h]; rfl

theorem known_relays (mask : RelayMask) : knownTransfer (relaysTransfer params mask) = true := by
  simp [knownTransfer, relaysTransfer, params]

theorem known_offsets (w0 w1 wt : HalfWord) : knownTransfer (offsetsTransfer params w0 w1 wt) = true := rfl

/-- A device command is a pair (41_command_encoder.md R100). -/
theorem streamActions_deviceCommand {bs : List Byte} {eff : Effect} {w : List Action}
    (h : bulkLengths.contains (bs.headD 0, bs.length) = true) (hw : streamActions false w) :
    streamActions false (deviceCommand params bs eff ++ w) :=
  ⟨⟨rfl, rfl⟩, ⟨known_bulk h, rfl⟩, hw⟩

/-- The length of SET_SAMPLERATE does not depend on the code (30_encoding.md R82). -/
theorem setSamplerate_bulkLength (code : BitVec 4) :
    bulkLengths.contains ((setSamplerate params code).headD 0, (setSamplerate params code).length) = true := rfl

/-- APPLY is seven commands, and the two control transfers between and after them (43_config_translator.md R164). -/
theorem streamActions_apply (cal : CalFile) (cfg : InstrumentConfig) (code : BitVec 4) :
    streamActions false (applySteps params cal cfg code) := by
  refine streamActions_deviceCommand rfl ⟨rfl, ?_⟩
  refine streamActions_deviceCommand rfl ?_
  refine streamActions_deviceCommand rfl ?_
  refine streamActions_deviceCommand rfl ?_
  refine streamActions_deviceCommand (setSamplerate_bulkLength code) ?_
  refine streamActions_deviceCommand rfl ?_
  refine streamActions_deviceCommand rfl ?_
  exact ⟨⟨known_offsets _ _ _, rfl⟩, trivial⟩

/-! ## Runs -/

/-- From `s` on a stream of the form of R72 and R102 was sent. -/
def Streamed (s t : State) : Prop := ∃ xs, t.sent = s.sent ++ xs ∧ StreamOk xs

/-- So it was, and the actions `w` go on with it. -/
def Streaming (s : State) (w : List Action) (u : State) : Prop :=
  ∃ xs, u.sent = s.sent ++ xs ∧ StreamOk xs ∧ streamActions (afterBegin xs) w

theorem Streaming.streamed {s u : State} {w : List Action} : Streaming s w u → Streamed s u
  | ⟨xs, hs, hx, _⟩ => ⟨xs, hs, hx⟩

theorem streamed_of_sent {s t : State} (h : t.sent = s.sent) : Streamed s t :=
  ⟨[], by rw [h, List.append_nil], streamOk_nil⟩

/-- The transfer at the head of the actions is offered. -/
theorem Streaming.offered {s u : State} {kind : XferKind} {x : Transfer} {eff : Effect} {w : List Action}
    (h : Streaming s (.xfer kind x eff :: w) u) : Streaming s w (offer x u) := by
  obtain ⟨xs, hs, hx, ⟨hk, hp⟩, hw⟩ := h
  refine ⟨xs ++ [x], ?_, hx.append_singleton hk hp, ?_⟩
  · rw [offer_sent, hs, List.append_assoc]
  · rw [afterBegin_append_singleton]; exact hw

/-- The relay transfer is skipped. -/
theorem Streaming.skipped {s u : State} {mask : RelayMask} {w : List Action} (h : Streaming s (.relays mask :: w) u) :
    Streaming s w u := by
  obtain ⟨xs, hs, hx, hb, hw⟩ := h
  exact ⟨xs, hs, hx, by rw [hb]; exact hw⟩

/-- Or it stands in the stream like any other. -/
theorem Streaming.relays_xfer {s u : State} {mask : RelayMask} {w : List Action}
    (h : Streaming s (.relays mask :: w) u) :
    Streaming s (.xfer .relays (relaysTransfer params mask) (.relayShadow mask) :: w) u := by
  obtain ⟨xs, hs, hx, hb, hw⟩ := h
  exact ⟨xs, hs, hx, ⟨known_relays mask, by rw [hb]; rfl⟩, hw⟩

/-- However far a run comes, what it sent is of the form of R72 and R102. -/
theorem run_streamed {w : List Action} {s : State} (hw : streamActions false w) : Streamed s (run w s) := by
  refine (run_induction (I := Streaming s) (J := fun _ _ _ => Streaming s) (Q := Streamed s)
    ?hend ?hseq ?hskip ?hxfer ?hrelay ?hwait ?hdone ?hfail ?hrst).1 w s
    ⟨[], (List.append_nil _).symm, streamOk_nil, hw⟩
  case hend => exact fun _ h => h.streamed
  case hseq => exact fun _ _ _ h => h
  case hskip => exact fun _ _ _ h _ => h.skipped
  case hxfer => exact fun _ _ _ _ _ h => h.offered
  case hrelay => exact fun _ _ _ h _ => h.relays_xfer.offered
  case hwait => exact fun _ _ _ _ _ h _ => h.streamed
  case hdone => exact fun _ _ eff _ u ps h _ => by rw [Streaming, complete_sent]; exact h
  case hfail => exact fun _ _ _ _ _ _ h _ => h.streamed
  case hrst => exact fun _ _ _ _ _ _ h _ => h.streamed

/-- Every course sends a stream of that form. -/
theorem course_streamed {i : Instr} {s t : State} (hc : Course i s t) : Streamed s t := by
  cases hc with
  | refused r _ _ ht => subst ht; exact streamed_of_sent rfl
  | command b eff hb _ ht =>
    subst ht
    exact run_streamed (s := startOp i.opsel s) (streamActions_deviceCommand (w := []) hb trivial)
  | relays mask _ ht => subst ht; exact run_streamed (s := startOp i.opsel s) ⟨rfl, trivial⟩
  | offsets w0 w1 wt _ ht =>
    subst ht
    exact run_streamed (s := startOp i.opsel s) ⟨⟨known_offsets w0 w1 wt, rfl⟩, trivial⟩
  | applied c cfg code _ _ ht =>
    subst ht
    exact run_streamed (s := writeCfg cfg (startOp i.opsel s)) (streamActions_apply s.cal cfg code)
  | ended v cal calValid ibuf obuf _ _ _ _ _ ht => subst ht; exact streamed_of_sent rfl
  | reset _ ht => subst ht; exact streamed_of_sent rfl

/-- Settles O25: whichever course an instruction takes, it sends a stream of the form, or nothing. -/
theorem transferStreamForm : Obligations.TransferStreamForm := by
  intro i s t h
  have streamed : Streamed s t := by
    rcases course_of_exec h with ⟨ps, -, rfl⟩ | ⟨ps, -, hc⟩
    · exact streamed_of_sent rfl
    · exact course_streamed (s := { s with pins := ps }) hc
  obtain ⟨xs, hs, hx⟩ := streamed
  exact ⟨xs, hs, hx.paired, hx.known⟩

end Sys2Proof.Machine
end

section
/-! PROOF. The transfers of APPLY, byte by byte (spec/30_encoding.md R72 to R87, spec/43_config_translator.md R135 to
R160), and its checks when they pass (R161): each command is the one that the spec writes out for the same operands, and the
sample request selects the least step that is not below it. -/

namespace Sys2Proof.Machine

/-! ## The relay mask and the words of OFFSETS -/

theorem couplingRelay_code (cp : Coupling) : defaultCouplingRelay cp = decide (cp.code.toNat = 1) := by
  cases cp <;> rfl

theorem externalSource_code (src : TrigSource) : (src == .ext) = decide (src.code.toNat = 3) := by cases src <;> rfl

/-- The relay mask of operands that were read is that of their codes (43_config_translator.md R136). -/
theorem relayMask_code (r0 : Range) (cp0 : Coupling) (r1 : Range) (cp1 : Coupling) (src : TrigSource) :
    relayMask params r0 cp0 r1 cp1 src = maskBytes r0.code cp0.code r1.code cp1.code src.code := by
  simp only [relayMask, params, couplingRelay_code, externalSource_code]
  rfl

theorem be16_eq_bigEndian (w : HalfWord) : be16 w = bigEndian w := by
  simp only [be16, bigEndian, leBytes, List.reverse_cons, List.reverse_nil, List.nil_append, List.cons_append,
    List.cons.injEq, and_true]
  constructor <;> apply BitVec.eq_of_toNat_eq <;> simp [BitVec.extractLsb'_toNat, Nat.shiftRight_eq_div_pow]

/-- Rounding half up is the floor after a half is added (00_scope.md R14, 43_config_translator.md R151). -/
theorem chanDac_eq_channelValue (pair : CalPair) (off : Rat) : chanDac pair off = channelValue pair off := rfl

theorem trigDac_code (src : TrigSource) (toff : Rat) : trigDac src toff = triggerValue src.code toff := by
  cases src <;> rfl

/-- OFFSETS holds the three biased words and nothing after them (43_config_translator.md R152, R153). -/
theorem offsetsTransfer_params (v0 v1 vt : Int) :
    offsetsTransfer params (offsetWord v0) (offsetWord v1) (offsetWord vt) = offsetsBytes v0 v1 vt := by
  simp only [offsetsTransfer, offsetsBytes, offsetWord, be16_eq_bigEndian]
  rfl

theorem offsetsOf_eq_cfgOffsets (cal : CalFile) (cfg : InstrumentConfig) :
    offsetsOf params cal cfg.ch0.range cfg.ch0.offset cfg.ch1.range cfg.ch1.offset cfg.trigger.source
      cfg.trigger.offset = cfgOffsets cal cfg := by
  rw [offsetsOf, offsetsTransfer_params, chanDac_eq_channelValue, chanDac_eq_channelValue, trigDac_code]
  rfl

/-! ## The sample clock -/

/-- SET_SAMPLERATE of a code is the row of R130. -/
theorem setSamplerate_eq_rateBytes (code : BitVec 4) : setSamplerate params code = rateBytes code := by
  revert code
  decide

/-- The steps of the staircase (10_state.md R26). -/
theorem stair_eq_stepSeconds (c : BitVec 4) : stair c = stepSeconds c := by
  have nanoseconds : c ≠ 0 → stairNanoseconds.getD c.toNat 0 = 10 * stairCount c := by revert c; decide
  by_cases h : c = 0
  · subst h; rfl
  · rw [stair, if_neg h, stepSeconds, nanoseconds h]
    push_cast
    ring

/-- The codes are searched from the least to the greatest. -/
theorem dividedCodes_sorted : dividedCodes.Pairwise (fun c d => c.toNat ≤ d.toNat) := by decide

theorem mem_dividedCodes {c : BitVec 4} (h : c ≠ 0) : c ∈ dividedCodes := by
  revert c
  decide

/-- What a search finds in a sorted list is the least of its kind. -/
theorem le_of_find {p : BitVec 4 → Bool} {l : List (BitVec 4)} {c d : BitVec 4}
    (hl : l.Pairwise (fun c d => c.toNat ≤ d.toNat)) (hc : l.find? p = some c) (hd : d ∈ l) (hp : p d = true) :
    c.toNat ≤ d.toNat := by
  obtain ⟨-, before, after, rfl, hbefore⟩ := List.find?_eq_some_iff_append.1 hc
  rcases List.mem_append.1 hd with hd | hd
  · have := hbefore d hd
    simp [hp] at this
  · rcases List.mem_cons.1 hd with rfl | hd
    · exact le_rfl
    · exact (List.pairwise_cons.1 (List.pairwise_append.1 hl).2.1).1 d hd

/-- The code that the quantizer gives is the least whose step is at least the request (42_sample_clock.md R127). -/
theorem selects_of_quantize {req : Rat} {c : BitVec 4} (h : quantize req = some c) : selects req c := by
  have first : stepSeconds 0 = 8 / 10 ^ 9 := (stair_eq_stepSeconds 0).symm
  unfold quantize at h
  split at h
  · next hq =>
    obtain rfl := Option.some.inj h
    exact ⟨hq.trans_eq first.symm, fun d _ => Nat.zero_le _⟩
  · next hq =>
    have hc : req ≤ stair c := by simpa using List.find?_some h
    refine ⟨hc.trans_eq (stair_eq_stepSeconds c), fun d hd => ?_⟩
    have hd0 : d ≠ 0 := by
      rintro rfl
      exact hq (hd.trans_eq first)
    exact le_of_find dividedCodes_sorted h (mem_dividedCodes hd0) (by simpa [stair_eq_stepSeconds] using hd)

/-- A request that is not above 400 µs has a code (42_sample_clock.md R126). -/
theorem quantize_isSome {req : Rat} (h : req ≤ 400 / 10 ^ 6) : (quantize req).isSome = true := by
  have last : stair 15 = 400 / 10 ^ 6 := by
    have count : stairNanoseconds.getD (15 : BitVec 4).toNat 0 = 400000 := rfl
    rw [stair_eq_stepSeconds, stepSeconds, count]
    norm_num
  unfold quantize
  split
  · rfl
  · exact List.find?_isSome.2 ⟨15, by decide, decide_eq_true (h.trans_eq last.symm)⟩

/-- The check of a request that is not above 400 µs gives the code that it selects. -/
theorem requireRate_ok {req : Rat} (h : req ≤ 400 / 10 ^ 6) : ∃ c, requireRate req = .ok c ∧ selects req c := by
  obtain ⟨c, hc⟩ := Option.isSome_iff_exists.1 (quantize_isSome h)
  exact ⟨c, by rw [requireRate, hc], selects_of_quantize hc⟩

/-- A request above 400 µs is SAMPLE_RANGE (42_sample_clock.md R126). -/
theorem requireRate_error {req : Rat} (h : ¬ req ≤ 400 / 10 ^ 6) : requireRate req = .error ⟨.sampleRange, 0⟩ := by
  cases hc : quantize req with
  | none => rw [requireRate, hc]
  | some c => exact absurd (le_of_quantize hc) h

/-! ## The checks of APPLY -/

/-- Two members of an enumeration with one code are one. -/
theorem eq_of_code {α : Type} {code : α → Byte} {ofCode : Byte → Option α} (inv : ∀ x, ofCode (code x) = some x)
    {x y : α} {b : Byte} (hx : code x = b) (hy : code y = b) : x = y :=
  Option.some.inj ((inv x).symm.trans ((congrArg ofCode (hx.trans hy.symm)).trans (inv y)))

/-- A serialized configuration stands for one configuration only. -/
theorem denotes_unique {c : CfgOperand} {cfg cfg' : InstrumentConfig} (h : denotes c cfg) (h' : denotes c cfg') :
    cfg = cfg' := by
  obtain ⟨⟨r0, cp0, o0⟩, ⟨r1, cp1, o1⟩, ⟨src, slope, toff⟩, sel, dl, ⟨tb, _⟩, ta⟩ := cfg
  obtain ⟨⟨r0', cp0', o0'⟩, ⟨r1', cp1', o1'⟩, ⟨src', slope', toff'⟩, sel', dl', ⟨tb', _⟩, ta'⟩ := cfg'
  obtain ⟨hr0, hcp0, rfl, hr1, hcp1, rfl, hsrc, hslope, rfl, hsel, hdl, rfl, rfl⟩ := h
  obtain ⟨hr0', hcp0', rfl, hr1', hcp1', rfl, hsrc', hslope', rfl, hsel', hdl', rfl, rfl⟩ := h'
  obtain rfl := eq_of_code Range.ofCode_code hr0 hr0'
  obtain rfl := eq_of_code Coupling.ofCode_code hcp0 hcp0'
  obtain rfl := eq_of_code Range.ofCode_code hr1 hr1'
  obtain rfl := eq_of_code Coupling.ofCode_code hcp1 hcp1'
  obtain rfl := eq_of_code TrigSource.ofCode_code hsrc hsrc'
  obtain rfl := eq_of_code Slope.ofCode_code hslope hslope'
  obtain rfl := eq_of_code ChanSel.ofCode_code hsel hsel'
  obtain rfl := eq_of_code DataLength.ofCode_code hdl hdl'
  rfl

/-- A configuration without a bad field is read as what it stands for. -/
theorem configOperand_of_denotes {c : CfgOperand} {cfg : InstrumentConfig} (good : operandsGood (.apply c))
    (h : denotes c cfg) : configOperand c = .ok cfg := by
  obtain ⟨cfg', read⟩ := good_of_check (config_check c) good
  rw [read, denotes_unique h (configOperand_ok read)]

/-- Where checks 1 to 3 of R161 pass, the sample request alone decides. -/
theorem validate_of_applicable {c : CfgOperand} {cfg : InstrumentConfig} {s : State} (h : applicable c cfg s) :
    validate c s = (requireRate (Config.tbToReq cfg.timeBase) >>= fun code => pure (cfg, code)) := by
  obtain ⟨good, hd, h0, h0', h1, h1', cal⟩ := h
  have off0 : requireOffset 0 cfg.ch0.offset = .ok () := by
    rw [requireOffset, decide_eq_true ⟨h0, h0'⟩, require_true]
  have off1 : requireOffset 1 cfg.ch1.offset = .ok () := by
    rw [requireOffset, decide_eq_true ⟨h1, h1'⟩, require_true]
  rw [validate, configOperand_of_denotes good hd]
  simp only [bind, Except.bind, off0, off1, requireCal_loaded cal]

section
variable {c : CfgOperand} {cfg : InstrumentConfig} {s : State} {ps : List Pin}

theorem applicable_startOp (op : Byte) (ps : List Pin) (h : applicable c cfg s) :
    applicable c cfg (startOp op { s with pins := ps }) := h

/-- APPLY past its checks (43_config_translator.md R160). -/
theorem exec_apply_clear {code : BitVec 4} (h : applicable c cfg s) (hp : reading s.pins = .clear ps)
    (hr : requireRate (Config.tbToReq cfg.timeBase) = .ok code) :
    exec (.apply c) s =
      .next (run (applySteps params s.cal cfg code) (writeCfg cfg (startOp 0x1F { s with pins := ps }))) := by
  have checks : validate c (startOp 0x1F { s with pins := ps }) = .ok (cfg, code) := by
    rw [validate_of_applicable (applicable_startOp 0x1F ps h), hr]
    rfl
  rw [exec, execApply, perform_ok hp checks]
  rfl

/-- APPLY of a request above 400 µs (43_config_translator.md R161, check 4). -/
theorem exec_apply_sampleRange (h : applicable c cfg s) (hp : reading s.pins = .clear ps)
    (hr : ¬ Config.tbToReq cfg.timeBase ≤ 400 / 10 ^ 6) :
    exec (.apply c) s = .next (refusedBy 0x1F 5 0 { s with pins := ps }) := by
  have checks : validate c (startOp 0x1F { s with pins := ps }) = .error ⟨.sampleRange, 0⟩ := by
    rw [validate_of_applicable (applicable_startOp 0x1F ps h), requireRate_error hr]
    rfl
  rw [exec, execApply, perform_error hp checks, raise_startOp]
  rfl

end

end Sys2Proof.Machine
end

section
/-! PROOF. APPLY does not roll back (spec/43_config_translator.md R163, spec/60_exceptions.md R216). The transfers of a run
are listed with the registers that stand when each is offered (`emissions`); where one of them fails, the state is that
of a broken operation over those registers. -/

namespace Sys2Proof.Machine

/-! ## The transfers of a run -/

/-- A transfer that actions offer: its kind, and the registers that stand when it is offered, after every transfer
before it succeeded. -/
structure Emission where
  kind : Word
  x : Transfer
  regs : State

/-- The transfers that the actions offer, one after the other, over the registers of `s`. -/
def emissions : List Action → State → List Emission
  | [], _ => []
  | .seq k :: w, s => emissions w (writeSeq k s)
  | .xfer kind x eff :: w, s => ⟨kind.code, x, s⟩ :: emissions w (applyEffect eff s)
  | .relays m :: w, s =>
    if relaySuppressed m s then emissions w s
    else ⟨XferKind.code .relays, relaysTransfer params m, s⟩ :: emissions w (writeRelayShadow m s)

theorem emissions_relays_suppressed {m : RelayMask} {w : List Action} {s : State} (h : relaySuppressed m s = true) :
    emissions (.relays m :: w) s = emissions w s := by
  rw [emissions, if_pos h]

/-- A relay transfer that is not suppressed is a transfer with its effect. -/
theorem emissions_relays_xfer {m : RelayMask} {w : List Action} {s : State} (h : relaySuppressed m s = false) :
    emissions (.relays m :: w) s =
      emissions (.xfer .relays (relaysTransfer params m) (.relayShadow m) :: w) s := by
  simp only [emissions, applyEffect, h, Bool.false_eq_true, if_false]

/-! ## The state in the midst of a run -/

/-- An operation in progress that has sent `xs` with success, over the registers of `s`; `v` and `y` are what the
transfer port holds. -/
def midRun (op : Byte) (v : Bool) (y : Transfer) (xs : List Transfer) (ps : List Pin) (s : State) : State :=
  { s with
    op := op
    done := xs.length
    busy := true
    resValid := false
    xferValid := v
    xfer := y
    sent := s.sent ++ xs
    pins := ps }

section
variable {op : Byte} {v : Bool} {y x : Transfer} {xs : List Transfer} {p q : List Pin} {s : State}

/-- An accepted operation has sent nothing yet. -/
theorem startOp_eq_midRun (op : Byte) (p : List Pin) (s : State) :
    startOp op { s with pins := p } = midRun op s.xferValid s.xfer [] p s := by
  rw [midRun, List.append_nil]
  rfl

/-- A transfer that succeeds joins those sent, and its effect the registers. -/
theorem complete_midRun (eff : Effect) :
    complete eff q (offer x (midRun op v y xs p s)) = midRun op false x (xs ++ [x]) q (applyEffect eff s) := by
  cases eff <;> simp only [midRun, complete, applyEffect, offer, writeRelayShadow, writeSampleT, List.append_assoc,
    List.length_append, List.length_singleton]

/-- A transfer that fails breaks the operation. -/
theorem raise_midRun (kind : XferKind) :
    raise ⟨.transport, kind.code⟩ { offer x (midRun op v y xs p s) with pins := q } =
      brokenAt op kind.code xs x q s := by
  simp only [raise, faultRecord, FaultCode.code, offer, midRun, brokenAt, List.append_assoc]

/-! ## Where a transfer fails -/

/-- Where the transport lets `n` transfers of the actions succeed and the next one fail, the operation is broken there,
over the registers that stand before that transfer. -/
def BreaksAtEmission (w : List Action) : Prop :=
  ∀ (op : Byte) (v : Bool) (y : Transfer) (xs : List Transfer) (p q : List Pin) (s : State) (n : Nat) (e : Emission),
    answered (List.replicate n true ++ [false]) p q → (emissions w s)[n]? = some e →
      run w (midRun op v y xs p s) =
        brokenAt op e.kind (xs ++ ((emissions w s).take n).map Emission.x) e.x q e.regs

/-- The transfer at the head fails itself, or joins those sent. -/
theorem breaksAtEmission_xfer {w : List Action} (ih : BreaksAtEmission w) (kind : XferKind) (x : Transfer)
    (eff : Effect) : BreaksAtEmission (.xfer kind x eff :: w) := by
  intro op v y xs p q s n e ha he
  cases n with
  | zero =>
    obtain ⟨r, h1, rfl⟩ := ha
    obtain rfl := Option.some.inj he
    rw [run_xfer_fail (s := midRun op v y xs p s) h1, raise_midRun, List.take_zero, List.map_nil, List.append_nil]
  | succ n =>
    obtain ⟨r, h1, h2⟩ := ha
    rw [run_xfer_done (s := midRun op v y xs p s) h1, complete_midRun, ih _ _ _ _ _ _ _ n e h2 he, emissions,
      List.take_succ_cons, List.map_cons, List.append_assoc, List.singleton_append]

theorem breaksAtEmission (w : List Action) : BreaksAtEmission w := by
  induction w with
  | nil => rintro op v y xs p q s n e - he; cases he
  | cons a w ih =>
    cases a with
    | seq k => exact fun op v y xs p q s n e ha he => ih op v y xs p q (writeSeq k s) n e ha he
    | xfer kind x eff => exact breaksAtEmission_xfer ih kind x eff
    | relays m =>
      intro op v y xs p q s n e ha he
      cases hs : relaySuppressed m s with
      | true =>
        rw [emissions_relays_suppressed hs] at he ⊢
        rw [run_relays_suppressed (s := midRun op v y xs p s) hs]
        exact ih op v y xs p q s n e ha he
      | false =>
        rw [emissions_relays_xfer hs] at he ⊢
        rw [run_relays_xfer (s := midRun op v y xs p s) hs]
        exact breaksAtEmission_xfer ih _ _ _ op v y xs p q s n e ha he

end

/-! ## The transfers of APPLY -/

/-- The registers of an APPLY when its transfer `n` is offered: CFG and SEQ, and what the relay and the rate commands
wrote if they came before (43_config_translator.md R163). -/
def applyRegs (s : State) (cfg : InstrumentConfig) (code : BitVec 4) (n : Nat) : State :=
  { s with
    cfg := cfg
    seq := (forTransfers (needsRelays s cfg) applyStepOf).getD n 0
    relayShadow := if needsRelays s cfg ∧ 3 ≤ n then cfgMask cfg else s.relayShadow
    relayValid := if needsRelays s cfg ∧ 3 ≤ n then true else s.relayValid
    sampleTCode := if applyCount (needsRelays s cfg) ≤ n + 5 then code else s.sampleTCode
    sampleTValid := if applyCount (needsRelays s cfg) ≤ n + 5 then true else s.sampleTValid }

/-- Transfer `n` of an APPLY (43_config_translator.md R160, R164). -/
def applyEmission (s : State) (cfg : InstrumentConfig) (code : BitVec 4) (n : Nat) : Emission where
  kind := (forTransfers (needsRelays s cfg) applyKindOf).getD n 0
  x := (applyAll s.cal cfg code (needsRelays s cfg)).getD n beginBytes
  regs := applyRegs s cfg code n

/-- The steps of APPLY with the bytes that the spec writes out for each. -/
theorem applySteps_bytes (cal : CalFile) (cfg : InstrumentConfig) (code : BitVec 4) :
    applySteps params cal cfg code =
      [.seq 1, .xfer .beginCmd beginBytes .none,
        .xfer .bulk (bulk [0x07, 0, cfg.ch0.range.code, cfg.ch0.coupling.code, cfg.ch1.range.code,
          cfg.ch1.coupling.code, 0, 0]) .none,
      .seq 2, .relays (cfgMask cfg),
      .seq 3, .xfer .beginCmd beginBytes .none,
        .xfer .bulk (bulk [0x0C, 0, cfg.trigger.source.code, cfg.trigger.slope.code]) .none,
      .seq 4, .xfer .beginCmd beginBytes .none, .xfer .bulk (bulk [0x0B, 0, cfg.channelSelect.code, 0]) .none,
      .seq 5, .xfer .beginCmd beginBytes .none, .xfer .bulk (bulk [0x0D, 0, cfg.dataLength.code, 0]) .none,
      .seq 6, .xfer .beginCmd beginBytes .none, .xfer .bulk (bulk (rateBytes code)) (.sampleT code),
      .seq 7, .xfer .beginCmd beginBytes .none,
        .xfer .bulk (bulk (triglenBytes cfg.dataLength.code cfg.triggerAddress)) .none,
      .seq 8, .xfer .beginCmd beginBytes .none, .xfer .bulk (bulk [0x00, 0, 0, 0]) .none,
      .seq 9, .xfer .offsets (cfgOffsets cal cfg) .none, .seq 0] := by
  rw [applySteps, offsetsOf_eq_cfgOffsets, relayMask_code, setTriglen_eq_triglenBytes, rateCommand,
    setSamplerate_eq_rateBytes]
  rfl

/-- The relay transfer is suppressed exactly where it is not needed, whatever the other registers. -/
theorem relaySuppressed_cfgMask {s t : State} (cfg : InstrumentConfig) (hm : t.relayShadow = s.relayShadow)
    (hv : t.relayValid = s.relayValid) : relaySuppressed (cfgMask cfg) t = !needsRelays s cfg := by
  rw [relaySuppressed, needsRelays, Bool.not_not, hm, hv]

theorem emissions_apply (s : State) (cfg : InstrumentConfig) (code : BitVec 4) :
    emissions (applySteps params s.cal cfg code) (writeCfg cfg s) =
      (List.range (applyCount (needsRelays s cfg))).map (applyEmission s cfg code) := by
  have suppressed := relaySuppressed_cfgMask (s := s) (t := writeSeq 2 (writeSeq 1 (writeCfg cfg s))) cfg rfl rfl
  rw [applySteps_bytes]
  simp only [emissions, applyEffect, suppressed]
  unfold applyEmission applyRegs
  cases needsRelays s cfg <;> rfl

/-- The transfers alone are those of R164. -/
theorem emissions_apply_transfers (s : State) (cfg : InstrumentConfig) (code : BitVec 4) :
    (emissions (applySteps params s.cal cfg code) (writeCfg cfg s)).map Emission.x =
      applyAll s.cal cfg code (needsRelays s cfg) := by
  rw [emissions_apply, List.map_map]
  change (List.range _).map (fun n => (applyAll s.cal cfg code (needsRelays s cfg)).getD n beginBytes) = _
  cases needsRelays s cfg <;> rfl

/-- An APPLY past its checks whose transfer `n` is the first that fails. -/
theorem run_apply_breaks {s : State} {cfg : InstrumentConfig} {code : BitVec 4} {p q : List Pin} {n : Nat}
    (hn : n < applyCount (needsRelays s cfg)) (ha : answered (List.replicate n true ++ [false]) p q) :
    run (applySteps params s.cal cfg code) (writeCfg cfg (startOp 0x1F { s with pins := p })) =
      brokenAt 0x1F (applyEmission s cfg code n).kind ((applyAll s.cal cfg code (needsRelays s cfg)).take n)
        (applyEmission s cfg code n).x q (applyRegs s cfg code n) := by
  have started : writeCfg cfg (startOp 0x1F { s with pins := p }) =
      midRun 0x1F s.xferValid s.xfer [] p (writeCfg cfg s) := by
    rw [startOp_eq_midRun]
    rfl
  have emission : (emissions (applySteps params s.cal cfg code) (writeCfg cfg s))[n]? =
      some (applyEmission s cfg code n) := by
    rw [emissions_apply, List.getElem?_map, List.getElem?_range hn, Option.map_some]
  rw [started, breaksAtEmission _ _ _ _ _ _ _ _ n _ ha emission, List.map_take, emissions_apply_transfers,
    List.nil_append]
  rfl

/-- Settles O47: the state of the broken operation stands over the registers that the transfers before it left; a
request above 400 µs is refused before any of them. -/
theorem applyDoesNotRollBack : Obligations.ApplyDoesNotRollBack := by
  intro c cfg s ps n hc hn ⟨p, hp, ha⟩
  split
  case isTrue fast =>
    obtain ⟨code, rate, sel⟩ := requireRate_ok fast
    refine ⟨code, sel, ?_⟩
    rw [exec_apply_clear hc hp rate, run_apply_breaks hn ha]
    rfl
  case isFalse slow => exact ⟨p, hp, exec_apply_sampleRange hc hp slow⟩

end Sys2Proof.Machine
end

section
/-! PROOF. The sample clock (spec/42_sample_clock.md R120 to R130): the code table of the quantizer row by row, the
requests that select each code, and QUANT_SAMPLERATE, whose device command writes the sample-clock register with the
success of its second transfer. -/

namespace Sys2Proof.Machine

/-! ## The rows of the code table -/

theorem divider_eq_table (c : BitVec 4) : (divider c).toNat = dividerTable.getD c.toNat 0 := by
  revert c
  decide

theorem rateFlags_eq_table (c : BitVec 4) :
    flagByte (fastSel c) ||| (flagByte (slowSel c) <<< 1) = rateFlagTable.getD c.toNat 0 := by
  revert c
  decide

theorem stairMultiplier_eq_table {c : BitVec 4} (h : c ≠ 0) :
    stairMultiplier c = [0, 1, 2, 4, 1, 2, 4, 1, 2, 4, 1, 2, 4, 1, 2, 4].getD c.toNat 0 := by
  revert c
  decide

theorem stairCount_eq_table {c : BitVec 4} (h : c ≠ 0) : 10 * stairCount c = stairNanoseconds.getD c.toNat 0 := by
  revert c
  decide

/-! ## The requests that select a code -/

theorem stairNanoseconds_mono {c d : BitVec 4} (h : c.toNat ≤ d.toNat) :
    stairNanoseconds.getD c.toNat 0 ≤ stairNanoseconds.getD d.toNat 0 := by
  revert c d
  decide

/-- The staircase rises with the code (42_sample_clock.md R121). -/
theorem stepSeconds_mono {c d : BitVec 4} (h : c.toNat ≤ d.toNat) : stepSeconds c ≤ stepSeconds d := by
  have rise : (stairNanoseconds.getD c.toNat 0 : Rat) ≤ stairNanoseconds.getD d.toNat 0 :=
    mod_cast stairNanoseconds_mono h
  exact div_le_div_of_nonneg_right rise (by norm_num)

/-- A request selects at most one code. -/
theorem selects_unique {req : Rat} {c d : BitVec 4} (hc : selects req c) (hd : selects req d) : c = d :=
  BitVec.eq_of_toNat_eq (le_antisymm (hc.2 d hd.1) (hd.2 c hc.1))

/-- The quantizer gives a code exactly where that code is the least one whose step is at least the request
(42_sample_clock.md R127). -/
theorem quantize_eq_some_iff {req : Rat} {c : BitVec 4} : quantize req = some c ↔ selects req c := by
  refine ⟨selects_of_quantize, fun sel => ?_⟩
  have fast : req ≤ 400 / 10 ^ 6 := sel.1.trans ((stair_eq_stepSeconds c).symm.trans_le (stair_le c))
  obtain ⟨d, hd⟩ := Option.isSome_iff_exists.1 (quantize_isSome fast)
  rw [hd, selects_unique (selects_of_quantize hd) sel]

theorem quantize_eq_none_iff {req : Rat} : quantize req = none ↔ 400 / 10 ^ 6 < req := by
  constructor
  · intro refused
    by_contra fast
    have coded := quantize_isSome (not_lt.1 fast)
    rw [refused] at coded
    cases coded
  · intro slow
    exact Option.eq_none_iff_forall_ne_some.2 fun c hc => slow.not_ge (le_of_quantize hc)

theorem toNat_pred {c : BitVec 4} (h : c ≠ 0) : (c - 1).toNat + 1 = c.toNat := by
  revert c
  decide

/-- The least step that is at least the request is the one whose predecessor is below it. -/
theorem selects_iff_between {req : Rat} {c : BitVec 4} :
    selects req c ↔ req ≤ stepSeconds c ∧ (c = 0 ∨ stepSeconds (c - 1) < req) := by
  constructor
  · rintro ⟨reach, least⟩
    refine ⟨reach, or_iff_not_imp_left.2 fun hc => lt_of_not_ge fun before => ?_⟩
    have := least _ before
    have := toNat_pred hc
    omega
  · rintro ⟨reach, first⟩
    refine ⟨reach, fun d hd => ?_⟩
    rcases first with rfl | before
    · exact Nat.zero_le _
    · by_contra less
      have below : d.toNat ≤ (c - 1).toNat := by
        have := toNat_pred (c := c) (by rintro rfl; simp at less)
        omega
      exact before.not_ge (hd.trans (stepSeconds_mono below))

/-- Settles O35: the rows are compared one by one; the quantizer gives the least step that is at least the request, and
the staircase rises, so the step before it is below the request. -/
theorem quantizerCodeTable : Obligations.QuantizerCodeTable :=
  ⟨fun c => ⟨stair_eq_stepSeconds c, divider_eq_table c, rateFlags_eq_table c,
      fun hc => ⟨stairMultiplier_eq_table hc, stairCount_eq_table hc⟩⟩,
    fun _ _ => quantize_eq_some_iff.trans selects_iff_between, fun _ => quantize_eq_none_iff⟩

/-! ## A device command with an effect -/

section
variable {op : Byte} {bs : List Byte} {eff : Effect} {x : Transfer} {xs : List Transfer} {s : State}
  {p q r : List Pin}

/-- An operation whose last transfer succeeded ends with OK(done). -/
theorem post_midRun : post (.count (xs ++ [x]).length) (midRun op false x (xs ++ [x]) q s) = emitted op xs x q s := by
  simp only [post, midRun, emitted, List.length_append, List.length_singleton]

/-- Both transfers succeed: OK(2), over the registers that the effect wrote. -/
theorem run_effect_done (h1 : arrival p = .done true r) (h2 : arrival r = .done true q) :
    run (deviceCommand params bs eff) (startOp op { s with pins := p }) =
      emitted op [beginBytes] (bulk bs) q (applyEffect eff s) := by
  rw [startOp_eq_midRun, deviceCommand_params, run_xfer_done (s := midRun op s.xferValid s.xfer [] p s) h1,
    complete_midRun, run_xfer_done (ps := q) h2, complete_midRun, run_nil]
  exact post_midRun

/-- BEGIN fails. -/
theorem run_effect_begin_fails (h : answered [false] p q) :
    run (deviceCommand params bs eff) (startOp op { s with pins := p }) = brokenAt op 1 [] beginBytes q s := by
  rw [startOp_eq_midRun]
  exact breaksAtEmission _ _ _ _ _ _ _ _ 0 ⟨1, beginBytes, s⟩ h rfl

/-- The bulk write fails after BEGIN's success: its effect does not come. -/
theorem run_effect_bulk_fails (h : answered [true, false] p q) :
    run (deviceCommand params bs eff) (startOp op { s with pins := p }) =
      brokenAt op 4 [beginBytes] (bulk bs) q s := by
  rw [startOp_eq_midRun]
  exact breaksAtEmission _ _ _ _ _ _ _ _ 1 ⟨4, bulk bs, s⟩ h rfl

end

/-! ## QUANT_SAMPLERATE -/

theorem rateOperand_of_den {req : QOperand} (h : req.den ≠ 0) : rateOperand req = .ok (qVal req) := by
  rw [rateOperand, qValue?, if_neg h, mkRat_qVal]
  rfl

section
variable {req : QOperand} {s : State} {ps : List Pin}

/-- QUANT_SAMPLERATE of a request with a code is the rate command of that code (42_sample_clock.md R124). -/
theorem exec_quantSamplerate_clear {c : BitVec 4} (hp : reading s.pins = .clear ps) (hd : req.den ≠ 0)
    (hr : requireRate (qVal req) = .ok c) :
    exec (.quantSamplerate req) s =
      .next (run (deviceCommand params (rateBytes c) (.sampleT c)) (startOp 0x15 { s with pins := ps })) := by
  have checks : (rateOperand req >>= requireRate) = .ok c := by rw [rateOperand_of_den hd]; exact hr
  rw [← setSamplerate_eq_rateBytes]
  exact perform_ok (checks := fun _ => rateOperand req >>= requireRate) hp checks

theorem exec_quantSamplerate_sampleRange (hp : reading s.pins = .clear ps) (hd : req.den ≠ 0)
    (slow : ¬ qVal req ≤ 400 / 10 ^ 6) :
    exec (.quantSamplerate req) s = .next (refusedBy 0x15 5 0 { s with pins := ps }) := by
  have checks : (rateOperand req >>= requireRate) = .error ⟨.sampleRange, 0⟩ := by
    rw [rateOperand_of_den hd]
    exact requireRate_error slow
  exact perform_error (checks := fun _ => rateOperand req >>= requireRate) hp checks

/-- A zero denominator is a bad field at offset 0 (30_encoding.md R65, R71). -/
theorem firstBad_quantSamplerate (h : req.den = 0) : firstBad (operandFields (.quantSamplerate req)) = some 0 := by
  simp [operandFields, firstBad, h]

end

/-- Settles O36: past its checks the operation is one device command, whose effect comes with the success of the bulk
write and not before. -/
theorem quantSampleratePrograms : Obligations.QuantSampleratePrograms := by
  intro req s ps
  refine ⟨fun hp hd => ?_, fun hp hd slow => exec_quantSamplerate_sampleRange hp hd slow.not_ge, fun hd fast => ?_⟩
  · exact reportsBadOperand_all (.quantSamplerate req) s ps 0 hp (firstBad_quantSamplerate hd)
  · obtain ⟨c, rate, sel⟩ := requireRate_ok fast
    refine ⟨c, sel, ?_, ?_, ?_⟩
    · rintro ⟨p, hp, q, h1, r, h2, rfl⟩
      rw [exec_quantSamplerate_clear hp hd rate, run_effect_done h1 h2]
      rfl
    · rintro ⟨p, hp, fails⟩
      rw [exec_quantSamplerate_clear hp hd rate, run_effect_begin_fails fails]
    · rintro ⟨p, hp, fails⟩
      rw [exec_quantSamplerate_clear hp hd rate, run_effect_bulk_fails fails]

end Sys2Proof.Machine
end

section
/-! PROOF. APPLY's checks (spec/43_config_translator.md R161) and its completion (R164, R169): each check that fails
refuses the operation before any effect; where every transfer of a run succeeds, the run ends over the registers that
its actions write in order (`completedRegs`). -/

namespace Sys2Proof.Machine

/-! ## A run whose transfers all succeed -/

/-- The registers that the actions leave, over those of `s`, where every transfer succeeds. A relay transfer that is
suppressed leaves the shadow that its success would have written. -/
def completedRegs : List Action → State → State
  | [], s => s
  | .seq k :: w, s => completedRegs w (writeSeq k s)
  | .xfer _ _ eff :: w, s => completedRegs w (applyEffect eff s)
  | .relays m :: w, s => completedRegs w (writeRelayShadow m s)

/-- The relay transfer is suppressed exactly where the shadow is valid and equal (43_config_translator.md R138). -/
theorem relaySuppressed_iff {m : RelayMask} {s : State} :
    relaySuppressed m s = true ↔ s.relayValid = true ∧ s.relayShadow = m := by
  rw [relaySuppressed, Bool.and_eq_true, beq_iff_eq]

theorem writeRelayShadow_of_suppressed {m : RelayMask} {s : State} (h : relaySuppressed m s = true) :
    writeRelayShadow m s = s := by
  obtain ⟨valid, rfl⟩ := relaySuppressed_iff.1 h
  rw [writeRelayShadow, ← valid]

/-- The transfers that the actions offer, in order. -/
def offered (w : List Action) (s : State) : List Transfer := (emissions w s).map Emission.x

/-- Where the transport lets every transfer of the actions succeed, the operation ends with OK(done), and the transfer
port holds the last transfer, if there was one. -/
def CompletesAll (w : List Action) : Prop :=
  ∀ (op : Byte) (v : Bool) (y : Transfer) (xs : List Transfer) (p q : List Pin) (s : State),
    answered (List.replicate (offered w s).length true) p q →
      run w (midRun op v y xs p s) =
        post (.count (xs ++ offered w s).length) (midRun op (v && (offered w s).isEmpty) ((offered w s).getLastD y)
          (xs ++ offered w s) q (completedRegs w s))

/-- The transfer at the head joins those sent. -/
theorem completesAll_xfer {w : List Action} (ih : CompletesAll w) (kind : XferKind) (x : Transfer) (eff : Effect) :
    CompletesAll (.xfer kind x eff :: w) := by
  rintro op v y xs p q s ⟨r, h1, h2⟩
  have transfers : offered (.xfer kind x eff :: w) s = x :: offered w (applyEffect eff s) := rfl
  rw [run_xfer_done (s := midRun op v y xs p s) h1, complete_midRun,
    ih _ _ _ _ _ _ _ (by rwa [offered, List.length_map] at *), transfers]
  simp only [List.append_assoc, List.singleton_append, Bool.false_and, List.isEmpty_cons, Bool.and_false,
    List.getLastD_cons]
  rfl

theorem completesAll (w : List Action) : CompletesAll w := by
  induction w with
  | nil =>
    rintro op v y xs p q s rfl
    simp [offered, emissions, completedRegs, run_nil, midRun]
  | cons a w ih =>
    cases a with
    | seq k => exact fun op v y xs p q s ha => ih op v y xs p q (writeSeq k s) ha
    | xfer kind x eff => exact completesAll_xfer ih kind x eff
    | relays m =>
      intro op v y xs p q s ha
      cases hs : relaySuppressed m s with
      | true =>
        rw [offered, emissions_relays_suppressed hs] at ha ⊢
        rw [run_relays_suppressed (s := midRun op v y xs p s) hs, completedRegs,
          writeRelayShadow_of_suppressed hs]
        exact ih op v y xs p q s ha
      | false =>
        rw [offered, emissions_relays_xfer hs] at ha ⊢
        rw [run_relays_xfer (s := midRun op v y xs p s) hs]
        exact completesAll_xfer ih _ _ _ op v y xs p q s ha

/-- A run that sends `xs`, then `x`, with success ends an operation that was just accepted. -/
theorem run_completes {op : Byte} {w : List Action} {s : State} {xs : List Transfer} {x : Transfer} {p q : List Pin}
    (hw : offered w s = xs ++ [x]) (ha : answered (List.replicate (xs.length + 1) true) p q) :
    run w (startOp op { s with pins := p }) = emitted op xs x q (completedRegs w s) := by
  have all : answered (List.replicate (offered w s).length true) p q := by
    rwa [hw, List.length_append, List.length_singleton]
  have nonempty : (xs ++ [x]).isEmpty = false := by simp
  rw [startOp_eq_midRun, completesAll w _ _ _ _ _ _ _ all, hw, List.nil_append, List.getLastD_concat, nonempty,
    Bool.and_false, post_midRun]

/-! ## One transfer -/

section
variable {op : Byte} {kind : XferKind} {x : Transfer} {eff : Effect} {s : State} {p q : List Pin}

theorem run_single_done (h : answered [true] p q) :
    run [.xfer kind x eff] (startOp op { s with pins := p }) = emitted op [] x q (applyEffect eff s) :=
  run_completes (xs := []) rfl h

theorem run_single_fails (h : answered [false] p q) :
    run [.xfer kind x eff] (startOp op { s with pins := p }) = brokenAt op kind.code [] x q s := by
  rw [startOp_eq_midRun]
  exact breaksAtEmission _ _ _ _ _ _ _ _ 0 ⟨kind.code, x, s⟩ h rfl

/-- An operation of one transfer ends with OK only where that transfer succeeds: unanswered it has no result, failing it
has a fault, and RST leaves none. -/
theorem answered_of_run_single_ok (hv : (run [.xfer kind x eff] (startOp op { s with pins := p })).resValid = true)
    (hk : (run [.xfer kind x eff] (startOp op { s with pins := p })).resKind = .ok) : ∃ q, answered [true] p q := by
  cases ha : arrival p with
  | nothing =>
    rw [run_xfer_nothing (s := startOp op { s with pins := p }) ha] at hv
    cases hv
  | rst q =>
    rw [run_xfer, await_rst (s := offer x (startOp op { s with pins := p })) ha] at hv
    cases hv
  | done ok q =>
    cases ok with
    | true => exact ⟨q, q, ha, rfl⟩
    | false =>
      rw [run_single_fails ⟨q, ha, rfl⟩] at hk
      cases hk

end

/-! ## The checks that ENC_OFFSETS and APPLY share -/

/-- The offset checks and the check of CAL_VALID, in their order (43_config_translator.md R152, R161). -/
def offsetChecks (off0 off1 : Rat) (s : State) : Except FaultReason Unit := do
  requireOffset 0 off0
  requireOffset 1 off1
  requireCal s

section
variable {off off0 off1 : Rat} {s : State}

theorem requireOffset_inside {ch : Word} (h0 : 0 ≤ off) (h1 : off ≤ 1) : requireOffset ch off = .ok () := by
  rw [requireOffset, decide_eq_true ⟨h0, h1⟩, require_true]

theorem requireOffset_outside {ch : Word} (h : off < 0 ∨ 1 < off) :
    requireOffset ch off = .error ⟨.offsetRange, ch⟩ := by
  have outside : ¬ (0 ≤ off ∧ off ≤ 1) := fun hin => h.elim hin.1.not_gt hin.2.not_gt
  rw [requireOffset, decide_eq_false outside, require_false]

/-- Channel 1 is checked first (43_config_translator.md R149, R152). -/
theorem offsetChecks_outside0 (h : off0 < 0 ∨ 1 < off0) : offsetChecks off0 off1 s = .error ⟨.offsetRange, 0⟩ := by
  rw [offsetChecks, requireOffset_outside h]
  rfl

theorem offsetChecks_outside1 (h0 : 0 ≤ off0) (h0' : off0 ≤ 1) (h : off1 < 0 ∨ 1 < off1) :
    offsetChecks off0 off1 s = .error ⟨.offsetRange, 1⟩ := by
  rw [offsetChecks, requireOffset_inside h0 h0', requireOffset_outside h]
  rfl

theorem offsetChecks_inside (h0 : 0 ≤ off0) (h0' : off0 ≤ 1) (h1 : 0 ≤ off1) (h1' : off1 ≤ 1) :
    offsetChecks off0 off1 s = requireCal s := by
  rw [offsetChecks, requireOffset_inside h0 h0', requireOffset_inside h1 h1']
  rfl

/-- An operation whose checks begin with the shared ones is refused by the first of them that fails. -/
theorem perform_offsetChecks {α : Type} {op : Byte} {r : FaultReason} {k : State → Except FaultReason α}
    {body : α → State → Host.Outcome State Fault Refusal} {ps : List Pin} (hp : reading s.pins = .clear ps)
    (h : offsetChecks off0 off1 (startOp op { s with pins := ps }) = .error r) :
    perform op (fun t => offsetChecks off0 off1 t >>= fun _ => k t) body s =
      .next (refusedBy op r.code.code r.info { s with pins := ps }) := by
  rw [perform_error hp (by rw [h]; rfl), raise_startOp]

end

/-! ## APPLY's checks -/

section
variable {c : CfgOperand} {cfg : InstrumentConfig} {s : State} {ps : List Pin} {r : FaultReason}

/-- Past the operand checks come the shared ones, and then the sample request (43_config_translator.md R161). -/
theorem validate_read (h : configOperand c = .ok cfg) : validate c = fun t =>
    offsetChecks cfg.ch0.offset cfg.ch1.offset t >>= fun _ =>
      requireRate (Config.tbToReq cfg.timeBase) >>= fun code => pure (cfg, code) := by
  funext t
  rw [validate, h]
  simp only [offsetChecks, bind_assoc]
  rfl

theorem exec_apply_offsetChecks (hc : configOperand c = .ok cfg) (hp : reading s.pins = .clear ps)
    (h : offsetChecks cfg.ch0.offset cfg.ch1.offset (startOp 0x1F { s with pins := ps }) = .error r) :
    exec (.apply c) s = .next (refusedBy 0x1F r.code.code r.info { s with pins := ps }) := by
  rw [exec, execApply, validate_read hc]
  exact perform_offsetChecks hp h

/-- An APPLY past its checks raises nothing but TRANSPORT. -/
theorem exec_apply_fault {code : BitVec 4} (h : applicable c cfg s) (hp : reading s.pins = .clear ps)
    (hr : requireRate (Config.tbToReq cfg.timeBase) = .ok code) : ∃ t, exec (.apply c) s = .next t ∧
      (t.fault = s.fault ∨ t.fault = FaultRecord.none ∨ t.fault.code = 1) :=
  ⟨_, exec_apply_clear h hp hr, (run_fault_cases _ _).imp_right Or.symm⟩

end

/-- Settles O45: the first failing check refuses the operation, and past them all only the transport can fault. -/
theorem applyValidation : Obligations.ApplyValidation := by
  intro c s ps hp
  refine ⟨fun off hb => reportsBadOperand_all (.apply c) s ps off hp hb, fun good => ?_⟩
  obtain ⟨cfg, read⟩ := good_of_check (config_check c) good
  have hd := configOperand_ok read
  have ⟨_, _, off0, _, _, off1, _⟩ := hd
  rw [← off0, ← off1]
  refine ⟨fun h => exec_apply_offsetChecks read hp (offsetChecks_outside0 h),
    fun h0 h0' h => exec_apply_offsetChecks read hp (offsetChecks_outside1 h0 h0' h), fun h0 h0' h1 h1' => ⟨?_, ?_⟩⟩
  · intro hv
    exact exec_apply_offsetChecks read hp ((offsetChecks_inside h0 h0' h1 h1').trans (requireCal_missing hv))
  · intro hv
    have checked : applicable c cfg s := ⟨good, hd, h0, h0', h1, h1', hv⟩
    refine ⟨cfg, hd, ?_⟩
    split
    case isTrue fast =>
      obtain ⟨code, rate, -⟩ := requireRate_ok fast
      exact exec_apply_fault checked hp rate
    case isFalse slow => exact exec_apply_sampleRange checked hp slow

/-! ## APPLY's completion -/

/-- The registers after a completed APPLY (43_config_translator.md R164): CFG, the relay shadow and the sample-clock
register are written, and SEQ is back at 0. -/
def appliedRegs (s : State) (cfg : InstrumentConfig) (code : BitVec 4) : State :=
  { s with cfg := cfg, seq := 0, relayShadow := cfgMask cfg, relayValid := true, sampleTCode := code,
           sampleTValid := true }

theorem completedRegs_apply (s : State) (cfg : InstrumentConfig) (code : BitVec 4) :
    completedRegs (applySteps params s.cal cfg code) (writeCfg cfg s) = appliedRegs s cfg code := by
  rw [applySteps_bytes]
  rfl

theorem applyBefore_length (cfg : InstrumentConfig) (code : BitVec 4) (relays : Bool) :
    (applyBefore cfg code relays).length + 1 = applyCount relays := by cases relays <;> rfl

/-- An APPLY past its checks whose transfers all succeed. -/
theorem exec_apply_completes {c : CfgOperand} {cfg : InstrumentConfig} {s : State} {ps : List Pin} {code : BitVec 4}
    (h : applicable c cfg s) (hr : requireRate (Config.tbToReq cfg.timeBase) = .ok code)
    (ha : answers (List.replicate (applyCount (needsRelays s cfg)) true) s.pins ps) :
    exec (.apply c) s = .next (emitted 0x1F (applyBefore cfg code (needsRelays s cfg)) (cfgOffsets s.cal cfg) ps
      (appliedRegs s cfg code)) := by
  obtain ⟨p, hp, ha⟩ := ha
  rw [← applyBefore_length cfg code] at ha
  rw [exec_apply_clear h hp hr, ← completedRegs_apply]
  exact congrArg Host.Outcome.next
    (run_completes (s := writeCfg cfg s) (emissions_apply_transfers s cfg code) ha)

/-- Settles O46: the transfers of the run are those of R164, and all of them succeed. -/
theorem applyCompletes : Obligations.ApplyCompletes := by
  intro c cfg s ps hc ha
  split
  case isTrue fast =>
    obtain ⟨code, rate, sel⟩ := requireRate_ok fast
    exact ⟨code, sel, exec_apply_completes hc rate ha⟩
  case isFalse slow =>
    obtain ⟨p, hp, -⟩ := ha
    exact ⟨p, hp, exec_apply_sampleRange hc hp slow⟩

/-- A completed APPLY leaves nothing for the same APPLY to send to the relays. -/
theorem needsRelays_emitted_appliedRegs {op : Byte} {xs : List Transfer} {x : Transfer} {ps : List Pin} (s : State)
    (cfg : InstrumentConfig) (code : BitVec 4) :
    needsRelays (emitted op xs x ps (appliedRegs s cfg code)) cfg = false := by
  simp only [needsRelays, emitted, appliedRegs, BEq.rfl, Bool.and_true, Bool.not_true]

/-- Settles O48: the first APPLY leaves the registers as the second leaves them, and with them a shadow by which the
second needs no relay transfer. -/
theorem applyTwice : Obligations.ApplyTwice := by
  intro c cfg s ps qs hc needed first second
  split
  case isTrue fast =>
    obtain ⟨code, rate, -⟩ := requireRate_ok fast
    have ht := exec_apply_completes hc rate (by rw [needed]; exact first)
    rw [needed] at ht
    have hu := exec_apply_completes (s := emitted 0x1F (applyBefore cfg code true) (cfgOffsets s.cal cfg) ps
      (appliedRegs s cfg code)) (ps := qs) hc rate (by rw [needsRelays_emitted_appliedRegs]; exact second)
    rw [needsRelays_emitted_appliedRegs] at hu
    exact ⟨code, _, _, ht, hu, rfl, rfl, rfl, rfl, rfl, rfl, rfl, rfl, rfl, rfl, rfl, rfl, rfl, rfl, rfl⟩
  case isFalse slow =>
    obtain ⟨p, hp, -⟩ := first
    exact ⟨p, hp, exec_apply_sampleRange hc hp slow⟩

end Sys2Proof.Machine
end

section
/-! PROOF. The relay transfer (spec/43_config_translator.md R137 to R140): it is sent unless the shadow is valid and
equal, and its success writes the shadow. -/

namespace Sys2Proof.Machine

section
variable {r0 cp0 r1 cp1 src : Byte} {s : State} {ps : List Pin}

/-- ENC_RELAYS past its checks is the relay transfer of the mask of its operands (43_config_translator.md R137). -/
theorem exec_encRelays_clear (good : operandsGood (.encRelays r0 cp0 r1 cp1 src)) (hp : reading s.pins = .clear ps) :
    exec (.encRelays r0 cp0 r1 cp1 src) s =
      .next (run [.relays (maskBytes r0 cp0 r1 cp1 src)] (startOp 0x11 { s with pins := ps })) := by
  obtain ⟨v, read⟩ := good_of_check (relay_check r0 cp0 r1 cp1 src) good
  obtain ⟨rfl, rfl, rfl, rfl, rfl⟩ := relayOperands_ok read
  rw [← relayMask_code]
  exact perform_ok (checks := fun _ => relayOperands _ _ _ _ _) hp read

/-- A suppressed relay transfer leaves OK(0). -/
theorem exec_encRelays_suppressed (good : operandsGood (.encRelays r0 cp0 r1 cp1 src))
    (hp : reading s.pins = .clear ps) (hs : relaySuppressed (maskBytes r0 cp0 r1 cp1 src) s = true) :
    exec (.encRelays r0 cp0 r1 cp1 src) s = .next (ended 0x11 (.count 0) { s with pins := ps }) := by
  rw [exec_encRelays_clear good hp, run_relays_suppressed (s := startOp 0x11 { s with pins := ps }) hs, run_nil]
  rfl

/-- One that is sent is a transfer whose success writes the shadow. -/
theorem exec_encRelays_sent (good : operandsGood (.encRelays r0 cp0 r1 cp1 src))
    (hp : reading s.pins = .clear ps) (hs : relaySuppressed (maskBytes r0 cp0 r1 cp1 src) s = false) :
    exec (.encRelays r0 cp0 r1 cp1 src) s =
      .next (run [.xfer .relays (relaysBytes (maskBytes r0 cp0 r1 cp1 src))
        (.relayShadow (maskBytes r0 cp0 r1 cp1 src))] (startOp 0x11 { s with pins := ps })) := by
  rw [exec_encRelays_clear good hp, run_relays_xfer (s := startOp 0x11 { s with pins := ps }) hs]
  rfl

end

/-- Settles O37: the shadow alone decides whether the one transfer is sent. -/
theorem encRelaysSuppression : Obligations.EncRelaysSuppression := by
  intro r0 cp0 r1 cp1 src
  refine ⟨reportsBadOperand_all _, fun good s ps => ⟨fun hp valid equal => ?_, fun differs => ?_⟩⟩
  · exact exec_encRelays_suppressed good hp (relaySuppressed_iff.2 ⟨valid, equal⟩)
  · have sent : relaySuppressed (maskBytes r0 cp0 r1 cp1 src) s = false :=
      Bool.eq_false_iff.2 fun hs => differs (relaySuppressed_iff.1 hs)
    constructor
    · rintro ⟨p, hp, h⟩
      rw [exec_encRelays_sent good hp sent, run_single_done h]
      rfl
    · rintro ⟨p, hp, h⟩
      rw [exec_encRelays_sent good hp sent, run_single_fails h]
      rfl

/-! ## Twice in a row -/

section
variable {r0 cp0 r1 cp1 src : Byte} {s t : State}

/-- An operation that ends with OK has good operands, and no RST came before it showed anything. -/
theorem accepted_of_ok {i : Instr} (h : exec i s = .next t) (hv : t.resValid = true) (hk : t.resKind = .ok) :
    operandsGood i ∧ ∃ ps, reading s.pins = .clear ps := by
  cases hp : reading s.pins with
  | rst ps =>
    obtain rfl := Host.Outcome.next.inj ((exec_rst hp).symm.trans h)
    cases hv
  | clear ps =>
    cases hb : firstBad (operandFields i) with
    | none => exact ⟨hb, ps, rfl⟩
    | some off =>
      obtain rfl := Host.Outcome.next.inj ((reportsBadOperand_all i s ps off hp hb).symm.trans h)
      cases hk

/-- An ENC_RELAYS that ends with OK leaves its mask in the shadow, and has sent its transfer unless the mask stood there
before. -/
theorem encRelays_ok (h : exec (.encRelays r0 cp0 r1 cp1 src) s = .next t) (hv : t.resValid = true)
    (hk : t.resKind = .ok) : relaySuppressed (maskBytes r0 cp0 r1 cp1 src) t = true ∧
      t.sent = s.sent ++ if relaySuppressed (maskBytes r0 cp0 r1 cp1 src) s = true then []
        else [relaysBytes (maskBytes r0 cp0 r1 cp1 src)] := by
  obtain ⟨good, ps, hp⟩ := accepted_of_ok h hv hk
  cases hs : relaySuppressed (maskBytes r0 cp0 r1 cp1 src) s with
  | true =>
    obtain rfl := Host.Outcome.next.inj ((exec_encRelays_suppressed good hp hs).symm.trans h)
    exact ⟨hs, (List.append_nil _).symm⟩
  | false =>
    obtain rfl := Host.Outcome.next.inj ((exec_encRelays_sent good hp hs).symm.trans h)
    obtain ⟨q, ha⟩ := answered_of_run_single_ok hv hk
    rw [run_single_done ha]
    exact ⟨relaySuppressed_iff.2 ⟨rfl, rfl⟩, rfl⟩

end

/-- Settles O38: the first leaves its mask in the shadow, which suppresses the second. -/
theorem relaysIssuedOnce : Obligations.RelaysIssuedOnce := by
  intro r0 cp0 r1 cp1 src s t h hv hk
  obtain ⟨suppressed, sent⟩ := encRelays_ok h hv hk
  refine ⟨fun ps hp => exec_encRelays_suppressed (accepted_of_ok h hv hk).1 hp suppressed, ?_⟩
  simpa only [relaySuppressed_iff] using sent

end Sys2Proof.Machine
end

section
/-! PROOF. The DAC offsets (spec/43_config_translator.md R148 to R154): rounding half up, the channel and the trigger
value, and ENC_OFFSETS, which sends them as three biased words. -/

namespace Sys2Proof.Machine

/-! ## Rounding half up -/

theorem roundHalfUp_sub_half_le (q : Rat) : (roundHalfUp q : Rat) - 1 / 2 ≤ q :=
  sub_le_iff_le_add.2 (Int.floor_le (q + 1 / 2))

theorem lt_roundHalfUp_add_half (q : Rat) : q < (roundHalfUp q : Rat) + 1 / 2 := by
  have := Int.lt_floor_add_one (q + 1 / 2)
  change q + 1 / 2 < (roundHalfUp q : Rat) + 1 at this
  linarith

theorem roundHalfUp_mono {p q : Rat} (h : p ≤ q) : roundHalfUp p ≤ roundHalfUp q :=
  Int.floor_mono (add_le_add_left h _)

theorem roundHalfUp_intCast (n : Int) : roundHalfUp n = n := by
  have : ⌊(n : Rat) + 1 / 2⌋ = n := by
    rw [Int.floor_intCast_add]
    norm_num
  exact this

/-- A value between two integers is rounded to one between them. -/
theorem roundHalfUp_mem {lo hi : Int} {q : Rat} (h0 : (lo : Rat) ≤ q) (h1 : q ≤ hi) :
    lo ≤ roundHalfUp q ∧ roundHalfUp q ≤ hi := by
  constructor
  · simpa only [roundHalfUp_intCast] using roundHalfUp_mono h0
  · simpa only [roundHalfUp_intCast] using roundHalfUp_mono h1

/-! ## The channel value -/

/-- The exact value of an offset in [0, 1] lies between the two levels, whichever is greater. -/
theorem level_mem {off a b : Rat} (h0 : 0 ≤ off) (h1 : off ≤ 1) :
    min a b ≤ off * (b - a) + a ∧ off * (b - a) + a ≤ max a b := by
  rcases le_total a b with h | h
  · rw [min_eq_left h, max_eq_right h]
    constructor <;> nlinarith
  · rw [min_eq_right h, max_eq_left h]
    constructor <;> nlinarith

/-- Settles O42: the exact value lies between the levels, and rounding half up keeps it there. -/
theorem channelValueCalibrated : Obligations.ChannelValueCalibrated := by
  intro pair off h0 h1
  obtain ⟨low, high⟩ := level_mem (a := pair.min.toNat) (b := pair.max.toNat) h0 h1
  obtain ⟨low, high⟩ := roundHalfUp_mem (lo := min pair.min.toNat pair.max.toNat)
    (hi := max pair.min.toNat pair.max.toNat) (by push_cast; exact low) (by push_cast; exact high)
  refine ⟨roundHalfUp_sub_half_le _, lt_roundHalfUp_add_half _, low, high, ?_, ?_⟩
  · rw [chanDac, zero_mul, zero_add]
    exact roundHalfUp_intCast _
  · rw [chanDac, one_mul, sub_add_cancel]
    exact roundHalfUp_intCast _

/-! ## The trigger value -/

theorem trigDac_of_channel {src : TrigSource} (h : src = .ch1 ∨ src = .ch2) (toff : Rat) :
    trigDac src toff = clampInt 0 0xFD (roundHalfUp (toff * 0xFD)) := by
  rcases h with rfl | rfl <;> rfl

theorem clampInt_of_le {lo hi q : Int} (h : lo ≤ hi) (hq : q ≤ lo) : clampInt lo hi q = lo := by
  rw [clampInt, min_eq_right (hq.trans h), max_eq_left hq]

theorem clampInt_of_ge {lo hi q : Int} (h : lo ≤ hi) (hq : hi ≤ q) : clampInt lo hi q = hi := by
  rw [clampInt, min_eq_left hq, max_eq_right h]

theorem clampInt_of_mem {lo hi q : Int} (h0 : lo ≤ q) (h1 : q ≤ hi) : clampInt lo hi q = q := by
  rw [clampInt, min_eq_right h1, max_eq_right h0]

/-- Settles O43: outside [0, 1] the rounded value lies beyond an end of the clamp, and inside it the clamp changes
nothing. -/
theorem triggerValueClamped : Obligations.TriggerValueClamped := by
  refine ⟨fun _ => ⟨rfl, rfl⟩, fun src toff channel => ?_⟩
  rw [trigDac_of_channel channel]
  refine ⟨fun below => clampInt_of_le (by decide) ?_, fun above => clampInt_of_ge (by decide) ?_, fun h0 h1 => ?_⟩
  · simpa only [roundHalfUp_intCast] using roundHalfUp_mono (q := (0 : Int)) (by push_cast; linarith)
  · simpa only [roundHalfUp_intCast] using roundHalfUp_mono (p := (0xFD : Int)) (by push_cast; linarith)
  · obtain ⟨low, high⟩ := roundHalfUp_mem (lo := 0) (hi := 0xFD) (q := toff * 0xFD) (by push_cast; linarith)
      (by push_cast; linarith)
    rw [clampInt_of_mem low high]
    exact ⟨low, high, roundHalfUp_sub_half_le _, lt_roundHalfUp_add_half _⟩

/-! ## ENC_OFFSETS -/

theorem qValue_of_den {q : QOperand} (h : q.den ≠ 0) : qValue? q = some (qVal q) := by
  rw [qValue?, if_neg h, mkRat_qVal]

section
variable {r0 r1 : Range} {off0 off1 toff : QOperand} {src : TrigSource} {s : State} {ps : List Pin}

theorem offsetOperands_read (h0 : off0.den ≠ 0) (h1 : off1.den ≠ 0) (ht : toff.den ≠ 0) :
    offsetOperands r0.code off0 r1.code off1 src.code toff = .ok ⟨r0, qVal off0, r1, qVal off1, src, qVal toff⟩ := by
  simp only [offsetOperands, Range.ofCode_code, TrigSource.ofCode_code, qValue_of_den h0, qValue_of_den h1,
    qValue_of_den ht, field_some]
  rfl

theorem offsetsOf_eq_offsetsBytes (cal : CalFile) (o0 o1 t : Rat) : offsetsOf params cal r0 o0 r1 o1 src t =
    offsetsBytes (channelValue (calGet cal .ch1 r0) o0) (channelValue (calGet cal .ch2 r1) o1)
      (triggerValue src.code t) := by
  rw [offsetsOf, offsetsTransfer_params, chanDac_eq_channelValue, chanDac_eq_channelValue, trigDac_code]

/-- ENC_OFFSETS whose operands are read begins with the shared checks (43_config_translator.md R152). -/
theorem execEncOffsets_read (h0 : off0.den ≠ 0) (h1 : off1.den ≠ 0) (ht : toff.den ≠ 0) :
    execEncOffsets r0.code off0 r1.code off1 src.code toff s =
      perform 0x18
        (fun t => offsetChecks (qVal off0) (qVal off1) t >>= fun _ =>
          pure (⟨r0, qVal off0, r1, qVal off1, src, qVal toff⟩ : OffsetOperands))
        (fun v t => emit [.xfer .offsets (offsetsOf params t.cal v.r0 v.off0 v.r1 v.off1 v.src v.toff) .none] t) s := by
  rw [execEncOffsets, offsetOperands_read h0 h1 ht]
  simp only [offsetChecks, bind_assoc]
  rfl

theorem exec_encOffsets_refused {r : FaultReason} (h0 : off0.den ≠ 0) (h1 : off1.den ≠ 0) (ht : toff.den ≠ 0)
    (hp : reading s.pins = .clear ps)
    (h : offsetChecks (qVal off0) (qVal off1) (startOp 0x18 { s with pins := ps }) = .error r) :
    exec (.encOffsets r0.code off0 r1.code off1 src.code toff) s =
      .next (refusedBy 0x18 r.code.code r.info { s with pins := ps }) := by
  rw [exec, execEncOffsets_read h0 h1 ht]
  exact perform_offsetChecks hp h

/-- ENC_OFFSETS past its checks is one transfer (43_config_translator.md R152, R153). -/
theorem exec_encOffsets_clear (h0 : off0.den ≠ 0) (h1 : off1.den ≠ 0) (ht : toff.den ≠ 0)
    (hp : reading s.pins = .clear ps)
    (h : offsetChecks (qVal off0) (qVal off1) (startOp 0x18 { s with pins := ps }) = .ok ()) :
    exec (.encOffsets r0.code off0 r1.code off1 src.code toff) s =
      .next (run [.xfer .offsets (offsetsBytes (channelValue (calGet s.cal .ch1 r0) (qVal off0))
          (channelValue (calGet s.cal .ch2 r1) (qVal off1)) (triggerValue src.code (qVal toff))) .none]
        (startOp 0x18 { s with pins := ps })) := by
  rw [exec, execEncOffsets_read h0 h1 ht, perform_ok hp (by rw [h]; rfl), ← offsetsOf_eq_offsetsBytes]
  rfl

end

/-- Settles O44: the first failing check refuses the operation; past them all the one transfer decides. -/
theorem encOffsetsTransfer : Obligations.EncOffsetsTransfer := by
  refine ⟨fun _ _ _ _ _ _ => reportsBadOperand_all _, fun r0 off0 r1 off1 src toff s ps d0 d1 dt => ?_⟩
  refine ⟨fun hp h => exec_encOffsets_refused d0 d1 dt hp (offsetChecks_outside0 h),
    fun hp h0 h0' h => exec_encOffsets_refused d0 d1 dt hp (offsetChecks_outside1 h0 h0' h),
    fun h0 h0' h1 h1' => ⟨fun hp hv => ?_, fun hv => ?_, fun hv => ?_⟩⟩
  · exact exec_encOffsets_refused d0 d1 dt hp ((offsetChecks_inside h0 h0' h1 h1').trans (requireCal_missing hv))
  · rintro ⟨p, hp, h⟩
    rw [exec_encOffsets_clear d0 d1 dt hp ((offsetChecks_inside h0 h0' h1 h1').trans (requireCal_loaded hv)),
      run_single_done h]
    rfl
  · rintro ⟨p, hp, h⟩
    rw [exec_encOffsets_clear d0 d1 dt hp ((offsetChecks_inside h0 h0' h1 h1').trans (requireCal_loaded hv)),
      run_single_fails h]
    rfl

end Sys2Proof.Machine
end

section
/-! PROOF. The trigger-length window (spec/43_config_translator.md R141 to R147): the sample count rises with the clamped
address, so its ends, and with them those of both bounds, are at 1 and at 98. -/

namespace Sys2Proof.Machine

theorem clampRat_mem {lo hi : Rat} (h : lo ≤ hi) (q : Rat) : lo ≤ clampRat lo hi q ∧ clampRat lo hi q ≤ hi :=
  ⟨le_max_left _ _, max_le h (min_le_left _ _)⟩

theorem clampRat_of_mem {lo hi q : Rat} (h0 : lo ≤ q) (h1 : q ≤ hi) : clampRat lo hi q = q := by
  rw [clampRat, min_eq_right h1, max_eq_right h0]

/-- The sample count sees the address through its clamped value alone (43_config_translator.md R141). -/
theorem windowSamples_congr {a b : Rat} (dl : DataLength) (h : clampRat 1 98 a = clampRat 1 98 b) :
    windowSamples dl a = windowSamples dl b := by
  rw [windowSamples, windowSamples, h]

theorem windowSamples_mono {a b : Rat} (dl : DataLength) (h : clampRat 1 98 a ≤ clampRat 1 98 b) :
    windowSamples dl a ≤ windowSamples dl b := by
  have scaled : (totalSamples dl : Rat) * clampRat 1 98 a / 100 ≤ (totalSamples dl : Rat) * clampRat 1 98 b / 100 := by
    gcongr
  exact Int.floor_mono scaled

/-- An address in the clamped range gives the floor of its percentage. -/
theorem windowSamples_eq {dl : DataLength} {ta : Rat} {n : Int} (h0 : 1 ≤ ta) (h1 : ta ≤ 98)
    (low : (n : Rat) ≤ (totalSamples dl : Rat) * ta / 100)
    (high : (totalSamples dl : Rat) * ta / 100 < (n : Rat) + 1) :
    windowSamples dl ta = n := by
  rw [windowSamples, clampRat_of_mem h0 h1]
  exact Int.floor_eq_iff.2 ⟨low, high⟩

theorem windowSamples_small_first : windowSamples .small 1 = 102 := by
  apply windowSamples_eq <;> norm_num [totalSamples]

theorem windowSamples_small_last : windowSamples .small 98 = 10035 := by
  apply windowSamples_eq <;> norm_num [totalSamples]

theorem windowSamples_large_first : windowSamples .large 1 = 5242 := by
  apply windowSamples_eq <;> norm_num [totalSamples]

theorem windowSamples_large_last : windowSamples .large 98 = 513802 := by
  apply windowSamples_eq <;> norm_num [totalSamples]

/-- The sample count of every address lies between those of 1 and 98. -/
theorem windowSamples_mem (dl : DataLength) (ta : Rat) :
    windowSamples dl 1 ≤ windowSamples dl ta ∧ windowSamples dl ta ≤ windowSamples dl 98 := by
  obtain ⟨low, high⟩ := clampRat_mem (lo := 1) (hi := 98) (by norm_num) ta
  have first : clampRat 1 98 1 = 1 := clampRat_of_mem le_rfl (by norm_num)
  have last : clampRat 1 98 98 = 98 := clampRat_of_mem (by norm_num) le_rfl
  exact ⟨windowSamples_mono dl (first.trans_le low), windowSamples_mono dl (high.trans_eq last.symm)⟩

theorem windowSamples_small_mem (ta : Rat) : 102 ≤ windowSamples .small ta ∧ windowSamples .small ta ≤ 10035 := by
  simpa only [windowSamples_small_first, windowSamples_small_last] using windowSamples_mem .small ta

theorem windowSamples_large_mem (ta : Rat) : 5242 ≤ windowSamples .large ta ∧ windowSamples .large ta ≤ 513802 := by
  simpa only [windowSamples_large_first, windowSamples_large_last] using windowSamples_mem .large ta

/-- Both bounds need no mask: the count is neither negative nor above TOTAL(dl) (43_config_translator.md R146). -/
theorem windowSamples_le_total (dl : DataLength) (ta : Rat) :
    0 < windowSamples dl ta ∧ windowSamples dl ta < totalSamples dl := by
  cases dl with
  | small =>
    have := windowSamples_small_mem ta
    simp only [totalSamples]
    omega
  | large =>
    have := windowSamples_large_mem ta
    simp only [totalSamples]
    omega

theorem totalSamples_le (dl : DataLength) : totalSamples dl ≤ 0x80000 := by cases dl <;> decide

theorem toNat_ofInt_19 {x : Int} (h0 : 0 ≤ x) (h1 : x < 2 ^ 19) : ((BitVec.ofInt 19 x).toNat : Int) = x := by
  rw [BitVec.toNat_ofInt]
  omega

theorem windowLow_toNat (dl : DataLength) (ta : Rat) : ((windowLow dl ta).toNat : Int) = windowLowRaw dl ta := by
  have := windowSamples_le_total dl ta
  have := totalSamples_le dl
  exact toNat_ofInt_19 (by rw [windowLowRaw]; omega) (by rw [windowLowRaw]; omega)

theorem windowHigh_toNat (dl : DataLength) (ta : Rat) : ((windowHigh dl ta).toNat : Int) = windowHighRaw dl ta := by
  have := windowSamples_le_total dl ta
  have := totalSamples_le dl
  exact toNat_ofInt_19 (by rw [windowHighRaw]; omega) (by rw [windowHighRaw]; omega)

/-- The bounds' sum does not depend on the address (43_config_translator.md R146). -/
theorem window_sum (dl : DataLength) (ta : Rat) :
    (windowLow dl ta).toNat + (windowHigh dl ta).toNat + totalSamples dl = 0xFFFFE := by
  have low := windowLow_toNat dl ta
  have high := windowHigh_toNat dl ta
  rw [windowLowRaw] at low
  rw [windowHighRaw] at high
  omega

/-- Settles O40: every bound is affine in the sample count, which lies between its values at 1 and at 98. -/
theorem windowBounds : Obligations.WindowBounds := by
  refine ⟨fun ta => ?_, ?_⟩
  · have small := windowSamples_small_mem ta
    have large := windowSamples_large_mem ta
    have lowSmall : windowLowRaw .small ta = 0x7FFFF - 10240 + windowSamples .small ta := rfl
    have highSmall : windowHighRaw .small ta = 0x7FFFF - windowSamples .small ta := rfl
    have lowLarge : windowLowRaw .large ta = 0x7FFFF - 0x80000 + windowSamples .large ta := rfl
    have highLarge : windowHighRaw .large ta = 0x7FFFF - windowSamples .large ta := rfl
    refine ⟨?_, ?_, ?_, ?_, ?_, ?_, ?_, ?_, ?_, ?_, ?_, ?_,
      fun dl => ⟨windowLow_toNat dl ta, windowHigh_toNat dl ta, window_sum dl ta⟩⟩ <;> omega
  · simp only [windowLowRaw, windowHighRaw, totalSamples, windowSamples_small_first, windowSamples_small_last,
      windowSamples_large_first, windowSamples_large_last]
    decide

/-! ## ENC_TRIGLEN and the clamp -/

theorem setTriglen_congr {a b : Rat} (dl : DataLength) (h : clampRat 1 98 a = clampRat 1 98 b) :
    setTriglen params dl a = setTriglen params dl b := by
  simp only [setTriglen, windowLow, windowHigh, windowLowRaw, windowHighRaw, windowSamples_congr dl h]

/-- An operation whose checks only read operands goes on with what they read. -/
theorem perform_read {α : Type} {op : Byte} {e : Except FaultReason α} {v : α}
    {body : α → State → Host.Outcome State Fault Refusal} (h : e = .ok v) (s : State) :
    perform op (fun _ => e) body s = unlessRst .next (body v) (startOp op s) := by
  rw [h]
  rfl

/-- ENC_TRIGLEN of a data length is the device command of its window, if no RST comes first. -/
theorem execEncTriglen_read {dl : Byte} {d : DataLength} {ta : QOperand} (hd : DataLength.ofCode? dl = some d)
    (hta : ta.den ≠ 0) (s : State) : execEncTriglen dl ta s =
      unlessRst .next (emit (deviceCommand params (setTriglen params d (qVal ta)) .none)) (startOp 0x16 s) := by
  have read : triglenOperands dl ta = .ok (d, qVal ta) := by
    rw [triglenOperands, hd, qValue_of_den hta]
    rfl
  exact perform_read read s

theorem triglenOperands_badLength {dl : Byte} (h : DataLength.ofCode? dl = none) (ta : QOperand) :
    triglenOperands dl ta = .error (badOperand 0) := by
  rw [triglenOperands, h]
  rfl

/-- Settles O41: a bad data length is refused before the address is read, and a good one sees the address through the
sample count alone. -/
theorem triggerAddressClamped : Obligations.TriggerAddressClamped := by
  intro dl a b s ha hb h
  rw [exec, exec]
  cases hd : DataLength.ofCode? dl with
  | none => rw [execEncTriglen, execEncTriglen, triglenOperands_badLength hd, triglenOperands_badLength hd]
  | some d => rw [execEncTriglen_read hd ha, execEncTriglen_read hd hb, setTriglen_congr d h]

end Sys2Proof.Machine
end

section
/-! PROOF. GET_CONFIG (spec/43_config_translator.md R166). -/

namespace Sys2Proof.Machine

/-- Settles O49: the operation has no checks, and its body posts what the registers hold. -/
theorem getConfigReturnsConfiguration : Obligations.GetConfigReturnsConfiguration := by
  intro s ps hp
  rw [exec, execGetConfig, perform_noChecks hp]
  rfl

end Sys2Proof.Machine
end

section
/-! PROOF. DECODE_CAPSTATE (spec/44_capture_control.md R177, R178): which number gives which capture state. -/

namespace Sys2Proof.Machine

variable {v : Word}

theorem captureState_of_toNat_zero (h : v.toNat = 0) : captureState v = .waiting := by
  obtain rfl : v = 0 := BitVec.eq_of_toNat_eq h
  rfl

theorem captureState_of_toNat_one (h : v.toNat = 1) : captureState v = .capturing := by
  obtain rfl : v = 1 := BitVec.eq_of_toNat_eq h
  rfl

theorem captureState_of_toNat_three (h : v.toNat = 3) : captureState v = .ready := by
  obtain rfl : v = 3 := BitVec.eq_of_toNat_eq h
  rfl

theorem captureState_of_toNat_other (h0 : v.toNat ≠ 0) (h1 : v.toNat ≠ 1) (h3 : v.toNat ≠ 3) :
    captureState v = .unknown := by
  have ne (n : Word) (h : v.toNat ≠ n.toNat) : v ≠ n := fun e => h (congrArg BitVec.toNat e)
  rw [captureState, if_neg (ne 0 h0), if_neg (ne 1 h1), if_neg (ne 3 h3)]

/-- No value is refused: the operation has no checks, and it posts the state with the raw value (R178). -/
theorem exec_decodeCapstate {s : State} {ps : List Pin} (v : Word) (hp : reading s.pins = .clear ps) :
    exec (.decodeCapstate v) s =
      .next (ended 0x28 (.capState (captureState v) v) { s with pins := ps }) := by
  rw [exec, execDecodeCapstate, perform_noChecks hp]
  rfl

/-- Settles O50: the answer is the value's capture state, which its number alone decides. -/
theorem decodeCapstateResult : Obligations.DecodeCapstateResult := by
  intro v s ps hp
  refine ⟨captureState v, exec_decodeCapstate v hp, fun h => ?waiting, fun h => ?capturing, fun h => ?ready,
    fun h0 h1 h3 => ?unknown⟩
  case waiting => rw [captureState_of_toNat_zero h]; exact ⟨rfl, rfl⟩
  case capturing => rw [captureState_of_toNat_one h]; exact ⟨rfl, rfl⟩
  case ready => rw [captureState_of_toNat_three h]; exact ⟨rfl, rfl⟩
  case unknown => rw [captureState_of_toNat_other h0 h1 h3]; exact ⟨rfl, rfl⟩

end Sys2Proof.Machine
end

section
/-! PROOF. The trigger pointer (spec/45_frame_assembler.md R186 to R189): two neighbouring bits of the transform differ
by one bit of the pointer, so the Gray encoding undoes the transform, which is therefore a bijection. -/

namespace Sys2Proof.Machine

/-! ## Neighbouring bits of the transform -/

/-- The XOR from bit 15 downward takes in one further bit at its lower end. -/
theorem xorFromTop_succ (m : Nat) : ∀ x : BitVec 18, m ≤ 15 →
    xorFromTop x (m + 1) = (xorFromTop x m ^^ x.getLsbD (15 - m)) := by
  induction m with
  | zero => intro x _; simp [xorFromTop]
  | succ m ih =>
    intro x hm
    have shifted : (x <<< 1).getLsbD (15 - m) = x.getLsbD (15 - (m + 1)) := by
      rw [BitVec.getLsbD_shiftLeft, show 15 - m - 1 = 15 - (m + 1) by omega]
      simp [show 15 - m < 18 by omega, show ¬ 15 - m < 1 by omega]
    rw [xorFromTop, ih (x <<< 1) (by omega), shifted, ← Bool.xor_assoc]
    rfl

/-- Each bit of the transform is the next higher one XOR the pointer's bit; above bit 15 it has none. -/
theorem tpTransform_bit_succ (p : Word) {i : Nat} (h : i < 16) :
    (tpTransform p).getLsbD i = ((tpTransform p).getLsbD (i + 1) ^^ p.getLsbD i) := by
  have above : (tpTransform p).getLsbD (i + 1) = xorFromTop (BitVec.setWidth 18 p) (15 - i) := by
    by_cases hi : i + 1 < 16
    · rw [tpTransform_bit p hi, show 16 - (i + 1) = 15 - i by omega]
    · rw [BitVec.getLsbD_of_ge _ _ (by omega), show 15 - i = 0 by omega, xorFromTop]
  rw [above, tpTransform_bit p h, show 16 - i = 15 - i + 1 by omega, xorFromTop_succ _ _ (by omega),
    show 15 - (15 - i) = i by omega, BitVec.getLsbD_setWidth, decide_eq_true (by omega : i < 18), Bool.true_and]

/-! ## The bits by the rule -/

/-- The XOR of the bits from `i` on below `n`. -/
def xorBelow (p : Word) (i n : Nat) : Bool :=
  (List.range n).foldl (fun b k => b ^^ (decide (i ≤ k) && p.getLsbD k)) false

theorem xorDownTo_eq_xorBelow (p : Word) (i : Nat) : xorDownTo p i = xorBelow p i 16 := rfl

theorem xorBelow_succ (p : Word) (i n : Nat) :
    xorBelow p i (n + 1) = (xorBelow p i n ^^ (decide (i ≤ n) && p.getLsbD n)) := by
  simp only [xorBelow, List.range_succ, List.foldl_append, List.foldl_cons, List.foldl_nil]

theorem xorBelow_of_le (p : Word) {i n : Nat} (h : n ≤ i) : xorBelow p i n = false := by
  induction n with
  | zero => rfl
  | succ n ih => rw [xorBelow_succ, ih (by omega), decide_eq_false (by omega)]; rfl

/-- The lowest bit of the range comes off at its lower end. -/
theorem xorBelow_eq_succ (p : Word) {i n : Nat} (h : i < n) :
    xorBelow p i n = (xorBelow p (i + 1) n ^^ p.getLsbD i) := by
  induction n with
  | zero => omega
  | succ n ih =>
    rw [xorBelow_succ, xorBelow_succ]
    rcases Nat.lt_or_eq_of_le (Nat.le_of_lt_succ h) with below | rfl
    · rw [ih below, decide_eq_true (by omega : i ≤ n), decide_eq_true (by omega : i + 1 ≤ n), Bool.xor_right_comm]
    · rw [xorBelow_of_le p le_rfl, xorBelow_of_le p (Nat.le_succ i)]
      simp

/-- Bit by bit from 15 downward, the transform is the XOR of R188. -/
theorem tpTransform_bit_xorDownTo (p : Word) {i : Nat} (h : i ≤ 16) :
    (tpTransform p).getLsbD i = xorDownTo p i := by
  induction h using Nat.decreasingInduction with
  | self => rw [xorDownTo_eq_xorBelow, xorBelow_of_le p le_rfl, BitVec.getLsbD_of_ge _ _ le_rfl]
  | of_succ i h ih =>
    rw [tpTransform_bit_succ p h, ih, xorDownTo_eq_xorBelow, xorDownTo_eq_xorBelow, ← xorBelow_eq_succ p h]

/-! ## The inverse -/

/-- The Gray encoding of the transform gives back the low 16 bits of the pointer. -/
theorem gray_tpTransform (p : Word) : p.setWidth 16 = tpTransform p ^^^ (tpTransform p >>> 1) := by
  refine BitVec.eq_of_getLsbD_eq fun i hi => ?_
  rw [BitVec.getLsbD_xor, BitVec.getLsbD_ushiftRight, Nat.add_comm 1 i, tpTransform_bit_succ p hi,
    BitVec.getLsbD_setWidth, decide_eq_true hi, Bool.true_and]
  rw [Bool.xor_right_comm, Bool.xor_self, Bool.false_xor]

theorem setWidth_low (low : HalfWord) : (low.setWidth 32).setWidth 16 = low := by
  rw [BitVec.setWidth_setWidth_of_le _ (by decide), BitVec.setWidth_eq]

/-- A left inverse makes the transform injective on the finite type u16, and so bijective. -/
theorem tpTransform_bijective : Function.Bijective fun low : HalfWord => tpTransform (low.setWidth 32) := by
  refine Function.Injective.bijective_of_finite fun a b h => ?_
  have h : tpTransform (a.setWidth 32) = tpTransform (b.setWidth 32) := h
  rw [← setWidth_low a, ← setWidth_low b, gray_tpTransform (a.setWidth 32), gray_tpTransform (b.setWidth 32), h]

/-- The value that some low half reaches is reached by the pointer's own. -/
theorem tpTransform_setWidth (p : Word) : tpTransform p = tpTransform ((p.setWidth 16).setWidth 32) := by
  obtain ⟨low, h : tpTransform (low.setWidth 32) = tpTransform p⟩ :=
    tpTransform_bijective.surjective (tpTransform p)
  have same : p.setWidth 16 = low := by rw [gray_tpTransform p, ← h, ← gray_tpTransform, setWidth_low]
  rw [same, h]

/-- Settles O52: neighbouring bits of the transform differ by a bit of the pointer, which gives its inverse. -/
theorem pointerTransformIsGrayDecode : Obligations.PointerTransformIsGrayDecode := by
  refine ⟨fun p i hi => tpTransform_bit_xorDownTo p hi.le, gray_tpTransform, fun tp => ?_, tpTransform_setWidth⟩
  obtain ⟨low, h⟩ := tpTransform_bijective.surjective tp
  exact ⟨low, h, fun other ho => tpTransform_bijective.injective (ho.trans h.symm)⟩

/-! ## DECODE_TP -/

theorem firstBad_pointer {p : Word} (h : 2 ^ 18 ≤ p.toNat) : firstBad [(0, decide (p.toNat < 2 ^ 18))] = some 0 := by
  rw [decide_eq_false (by omega)]
  rfl

/-- A pointer of 18 bits is read as it stands. -/
theorem pointerOperand_read {p : Word} (h : p.toNat < 2 ^ 18) : pointerOperand p = .ok p := by
  obtain ⟨v, read⟩ := good_of_check (pointer_check p) (by simp only [operandFields, decide_eq_true h]; rfl)
  rw [read, pointerOperand_ok read]

/-- Settles O51: the operand check alone decides, and the bits of the value are those of R188. -/
theorem decodeTpResult : Obligations.DecodeTpResult := by
  refine fun p s ps hp => ⟨fun h => ⟨tpTransform p, ?_, fun i hi => tpTransform_bit_xorDownTo p hi.le⟩,
    fun h => reportsBadOperand_all (.decodeTp p) s ps 0 hp (firstBad_pointer h)⟩
  rw [exec, execDecodeTp, perform_ok hp (pointerOperand_read h)]
  rfl

end Sys2Proof.Machine
end

section
/-! PROOF. The frame operations (spec/45_frame_assembler.md R190 to R202): the rotation of a block, the bytes of the two
headers, and each operation's checks in their order before its writes. -/

namespace Sys2Proof.Machine

/-! ## The rotation -/

section
variable {tp : Nat} {block : List Byte}

theorem rotateBlock_eq_rotate (h : 2 * tp ≤ block.length) : rotateBlock tp block = block.rotate (2 * tp) :=
  (List.rotate_eq_drop_append_take h).symm

/-- The rotation is the byte rule of R190. -/
theorem rotateBlock_eq_unwrapped (ht : tp < 10240) (hb : block.length = 20480) :
    rotateBlock tp block = unwrapped tp block := by
  rw [rotateBlock_eq_rotate (by omega)]
  refine List.ext_getElem (by simp [unwrapped, hb]) fun i _ _ => ?_
  have inside : (i + 2 * tp) % 20480 < block.length := by omega
  simp only [List.getElem_rotate, unwrapped, List.getElem_map, List.getElem_range, hb,
    List.getD_eq_getElem block 0 inside]

/-- Rotating on by what is left of the block is rotating back. -/
theorem rotateBlock_rotateBlock (ht : tp < 10240) (hb : block.length = 20480) :
    rotateBlock (10240 - tp) (rotateBlock tp block) = block := by
  rw [rotateBlock_eq_rotate (by rw [rotateBlock_length]; omega), rotateBlock_eq_rotate (by omega), List.rotate_rotate,
    show 2 * tp + 2 * (10240 - tp) = block.length by omega, List.rotate_length]

/-- Before the block's end wraps round, the rotation reads `2·tp` bytes ahead. -/
theorem rotateBlock_getElem? {j : Nat} (h : 2 * tp + j < block.length) :
    (rotateBlock tp block)[j]? = block[2 * tp + j]? := by
  rw [rotateBlock, List.getElem?_append_left (by rw [List.length_drop]; omega), List.getElem?_drop]

end

/-- Settles O54: the rotation is the library's, whose rotations add up. -/
theorem rotationIsBijection : Obligations.RotationIsBijection := fun _ _ ht hb =>
  ⟨rotateBlock_eq_unwrapped ht hb, rotateBlock_rotateBlock ht hb, rotateBlock_getElem? (by omega),
    rotateBlock_getElem? (by omega)⟩

/-! ## The buffers -/

theorem holdsAt_write (m : Memory) (a : Nat) (bs : List Byte) : holdsAt (Memory.write m a bs) m a bs :=
  byteAt_write m a bs

theorem byteAt_placed (block : List Byte) (a : Nat) : Memory.byteAt (Memory.cellsAt 0 block) a = block[a]? := by
  rw [byteAt_cellsAt, if_pos (Nat.zero_le a), Nat.sub_zero]

theorem headerBytes_eq_dataHeader (s : State) :
    headerBytes s = dataHeader s.cfg.timeBase.val (stepSeconds s.sampleTCode) := by
  have fields : le16 1 ++ le16 32 = [1, 0, 32, 0] := rfl
  rw [headerBytes, dataHeader, ← fields, le32_eq_littleEndian, le32_eq_littleEndian, stair_eq_stepSeconds, zeros]
  simp only [List.append_assoc]

theorem stoppedBytes_eq_stoppedFrame : stoppedBytes = stoppedFrame := rfl

/-! ## The checks -/

section
variable {len : Word} {tp : HalfWord}

theorem requireBlock_whole (h : len.toNat = 20480) : requireBlock len = .ok () := by
  obtain rfl : len = 20480 := BitVec.eq_of_toNat_eq h
  rfl

theorem requireBlock_other (h : len.toNat ≠ 20480) : requireBlock len = .error ⟨.blockLen, len⟩ := by
  have other : (len == 20480) = false := beq_false_of_ne fun e => h (congrArg BitVec.toNat e)
  rw [requireBlock, other, require_false]

theorem requirePointer_inside (h : tp.toNat < 10240) : requirePointer tp = .ok () := by
  rw [requirePointer, decide_eq_true h, require_true]

theorem requirePointer_outside (h : 10240 ≤ tp.toNat) :
    requirePointer tp = .error ⟨.tpRange, BitVec.ofNat 32 tp.toNat⟩ := by
  rw [requirePointer, decide_eq_false h.not_gt, require_false, BitVec.ofNat_toNat]

/-- The checks that UNWRAP and ASSEMBLE_FRAME share, in their order (R191, R192). -/
def blockChecks (tp : HalfWord) (len : Word) : Except FaultReason Unit := do
  requireBlock len
  requirePointer tp

theorem blockChecks_length (h : len.toNat ≠ 20480) : blockChecks tp len = .error ⟨.blockLen, len⟩ := by
  rw [blockChecks, requireBlock_other h]
  rfl

theorem blockChecks_range (hl : len.toNat = 20480) (ht : 10240 ≤ tp.toNat) :
    blockChecks tp len = .error ⟨.tpRange, BitVec.ofNat 32 tp.toNat⟩ := by
  rw [blockChecks, requireBlock_whole hl]
  exact requirePointer_outside ht

theorem blockChecks_passed (hl : len.toNat = 20480) (ht : tp.toNat < 10240) : blockChecks tp len = .ok () := by
  rw [blockChecks, requireBlock_whole hl]
  exact requirePointer_inside ht

end

/-! ## Operations that use the buffers -/

section
variable {α : Type} {op : Byte} {checks : State → Except FaultReason α} {s : State} {ps : List Pin}

/-- The first check that fails refuses the operation. -/
theorem perform_refused {body : α → State → Host.Outcome State Fault Refusal} (r : FaultReason)
    (hp : reading s.pins = .clear ps) (h : checks (startOp op { s with pins := ps }) = .error r) :
    perform op checks body s = .next (refusedBy op r.code.code r.info { s with pins := ps }) := by
  rw [perform_error hp h, raise_startOp]

/-- Past its checks, an operation whose body leaves the buffers `ib` and `ob` ends with its value. -/
theorem perform_buffers {f : α → State → Except Fault State} {v : α → ResValue} {a : α} {ib ob : Memory}
    (hp : reading s.pins = .clear ps) (hc : checks (startOp op { s with pins := ps }) = .ok a)
    (hf : f a (startOp op { s with pins := ps }) =
      .ok { startOp op { s with pins := ps } with ibuf := ib, obuf := ob }) :
    perform op checks (fun a t => settle (f a t >>= fun u => pure (post (v a) u))) s =
      .next (ended op (v a) { s with ibuf := ib, obuf := ob, pins := ps }) := by
  rw [perform_ok hp hc, hf]
  rfl

end

/-! ## The headers -/

theorem exec_buildStoppedFrame (s : State) : exec .buildStoppedFrame s =
    perform 0x33 noChecks (fun _ t => settle (stoppedHeaderBody t >>= fun u => pure (post (.count 32) u))) s := rfl

/-- Settles O58: the operation has no checks, and its body is one write of the 32 bytes. -/
theorem buildStoppedFrameWrites : Obligations.BuildStoppedFrameWrites := by
  refine fun s ps hp => ⟨Memory.write s.obuf 0 stoppedBytes, ?_, holdsAt_write s.obuf 0 stoppedBytes⟩
  rw [exec_buildStoppedFrame]
  exact perform_buffers hp (a := ()) rfl (stoppedHeaderBody_ok _)

theorem exec_buildDataHeader (s : State) : exec .buildDataHeader s =
    perform 0x32 requireSampleT (fun _ t => settle (dataHeaderBody t >>= fun u => pure (post (.count 32) u))) s := rfl

/-- Settles O55: the one check is that of the sample clock, and the body is one write of the 32 bytes. -/
theorem buildDataHeaderWrites : Obligations.BuildDataHeaderWrites := by
  intro s ps hp
  rw [exec_buildDataHeader, ← headerBytes_eq_dataHeader]
  exact ⟨fun unset => perform_refused ⟨.sampleTUnset, 0⟩ hp (requireSampleT_unset unset), fun valid =>
    ⟨Memory.write s.obuf 0 (headerBytes s), perform_buffers hp (requireSampleT_set valid) (dataHeaderBody_ok _),
      holdsAt_write s.obuf 0 _⟩⟩

/-! ## UNWRAP -/

theorem exec_unwrap (tp : HalfWord) (len : Word) (block : List Byte) (s : State) : exec (.unwrap tp len block) s =
    perform 0x31 (fun _ => blockChecks tp len)
      (fun _ t => settle (unwrapBody tp block t >>= fun u => pure (post (.count 20480) u))) s := rfl

/-- Settles O53: the two checks in their order, and then one write of the rotated block behind the header. -/
theorem unwrapRotatesBlock : Obligations.UnwrapRotatesBlock := by
  intro tp len block s ps hp
  rw [exec_unwrap]
  refine ⟨fun hl => perform_refused ⟨.blockLen, len⟩ hp (blockChecks_length hl),
    fun hl ht => perform_refused ⟨.tpRange, _⟩ hp (blockChecks_range hl ht), fun hl ht hb =>
    ⟨_, _, perform_buffers hp (blockChecks_passed hl ht) (unwrapBody_ok tp _ hb), byteAt_placed block, ?_⟩⟩
  rw [← rotateBlock_eq_unwrapped ht hb]
  exact holdsAt_write s.obuf 32 _

/-! ## ASSEMBLE_FRAME -/

/-- The checks of ASSEMBLE_FRAME in their order, with the transformed pointer as their value (R201). -/
def frameChecks (p len : Word) (t : State) : Except FaultReason HalfWord := do
  let v ← pointerOperand p
  requireBlock len
  requirePointer (tpTransform v)
  requireSampleT t
  pure (tpTransform v)

/-- The body of ASSEMBLE_FRAME: the header, and behind it the rotated block (R201). -/
def frameBody (block : List Byte) (tp : HalfWord) (t : State) : Except Fault State :=
  dataHeaderBody t >>= unwrapBody tp block

theorem exec_assembleFrame (p len : Word) (block : List Byte) (s : State) : exec (.assembleFrame p len block) s =
    perform 0x34 (frameChecks p len)
      (fun tp t => settle (frameBody block tp t >>= fun u => pure (post (.frame 20512 tp) u))) s := by
  simp only [frameBody, bind_assoc]
  rfl

/-- Past the operand check come those of UNWRAP, and then that of BUILD_DATA_HEADER. -/
theorem frameChecks_read {p : Word} (h : p.toNat < 2 ^ 18) (len : Word) (t : State) : frameChecks p len t =
    blockChecks (tpTransform p) len >>= fun _ => requireSampleT t >>= fun _ => pure (tpTransform p) := by
  rw [frameChecks, pointerOperand_read h, blockChecks, bind_assoc]
  rfl

/-- The header and the rotated block are one write. -/
theorem frameBody_ok {block : List Byte} (tp : HalfWord) (s : State) (h : block.length = 20480) :
    frameBody block tp s = .ok { s with
      ibuf := Memory.cellsAt 0 block, obuf := Memory.write s.obuf 0 (headerBytes s ++ rotateBlock tp.toNat block) } := by
  have joined := write_write s.obuf 0 (headerBytes s) (rotateBlock tp.toNat block)
  rw [headerBytes_length] at joined
  rw [frameBody, dataHeaderBody_ok, ← joined]
  exact unwrapBody_ok tp _ h

/-- Settles O59: the four checks in their order, and then one write of the whole frame. -/
theorem assembleFrameWrites : Obligations.AssembleFrameWrites := by
  intro p len block s ps hp
  refine ⟨fun bad => reportsBadOperand_all (.assembleFrame p len block) s ps 0 hp (firstBad_pointer bad), ?_⟩
  rw [exec_assembleFrame, ← headerBytes_eq_dataHeader]
  refine ⟨fun good hl => perform_refused ⟨.blockLen, len⟩ hp ?length,
    fun good hl ht => perform_refused ⟨.tpRange, _⟩ hp ?range,
    fun good hl ht unset => perform_refused ⟨.sampleTUnset, 0⟩ hp ?clock, fun good hl ht valid hb =>
    ⟨_, _, perform_buffers hp ?passed (frameBody_ok (tpTransform p) _ hb), byteAt_placed block, ?bytes⟩⟩
  case length => rw [frameChecks_read good, blockChecks_length hl]; rfl
  case range => rw [frameChecks_read good, blockChecks_range hl ht]; rfl
  case clock =>
    have clock := requireSampleT_unset (s := startOp 0x34 { s with pins := ps }) unset
    rw [frameChecks_read good, blockChecks_passed hl ht, clock]
    rfl
  case passed =>
    have clock := requireSampleT_set (s := startOp 0x34 { s with pins := ps }) valid
    rw [frameChecks_read good, blockChecks_passed hl ht, clock]
    rfl
  case bytes =>
    rw [← rotateBlock_eq_unwrapped ht hb]
    exact holdsAt_write s.obuf 0 _

end Sys2Proof.Machine
end

section
/-! PROOF. The binary32 patterns of the staircase (spec/45_frame_assembler.md R197): each listed value is the inverse of
a natural number. -/

namespace Sys2Proof.Machine

/-- The pattern of the inverse of `d`, a fraction in lowest terms. -/
theorem f32_of_mul_eq_one {q : Rat} (d : Nat) (h : q * d = 1) : f32 q = BitVec.ofNat 32 (f32Magnitude 1 d) := by
  have hq : q = (d : Rat)⁻¹ := eq_inv_of_mul_eq_one_left h
  have pos : 0 < d := Nat.pos_of_ne_zero fun zero => by simp [zero] at h
  have num : q.num = 1 := by rw [hq, Rat.inv_natCast_num_of_pos pos]
  have den : q.den = d := by rw [hq, Rat.inv_natCast_den_of_pos pos]
  simp only [f32, num, den, if_neg one_ne_zero, if_neg (by decide : ¬ (1 : Int) < 0), Int.natAbs_one]

/-- Settles O56: 8 ns is the inverse of 125000000, and so on; the machine's rounding of each inverse is evaluated. -/
theorem staircasePatterns : Obligations.StaircasePatterns := by
  refine ⟨f32_of_mul_eq_one 125000000 ?_, f32_of_mul_eq_one 100000000 ?_, f32_of_mul_eq_one 50000000 ?_,
    f32_of_mul_eq_one 25000000 ?_, f32_of_mul_eq_one 10000000 ?_, f32_of_mul_eq_one 5000000 ?_,
    f32_of_mul_eq_one 2500000 ?_, f32_of_mul_eq_one 1000000 ?_, f32_of_mul_eq_one 2500 ?_⟩ <;> norm_num

end Sys2Proof.Machine
end

section
/-! PROOF. The fault state (spec/60_exceptions.md R213 to R218): a fault of codes 2 to 9 is fault entry before any effect,
and the faulted block refuses every request but RESET. -/

namespace Sys2Proof.Machine

/-! ## The faulted block -/

/-- Settles O7: the request is taken from the port and refused, and no RST abandons the answer. -/
theorem faultedBlockRefuses : Obligations.FaultedBlockRefuses := by
  intro s r rs ps qs hb hp hq hf hr hop
  have refused : fetch s =
      .settled (unlessRst .next (fun t => .next (postFaulted t)) { s with reqs := rs, pins := ps }) := by
    rw [fetch_request hb hp hr]
    exact accept_faulted hf hop
  rw [step_settled refused]
  exact unlessRst_clear hq

/-- By the invariant a block in the fault state is idle (10_state.md R35). -/
theorem StateInv.idle_of_fault {s : State} (h : StateInv s) (hf : s.fault.code ≠ 0) : s.busy = false :=
  Bool.eq_false_iff.2 fun hb => hf (h.waiting hb).1

/-- Settles O8: the faulted block is idle, so it keeps its registers for want of a request, or refuses the one it
takes. -/
theorem onlyResetLeavesFault : Obligations.OnlyResetLeavesFault := by
  intro s t ps qs inv hf hs hp hq hop
  have hb := inv.idle_of_fault hf
  cases hr : s.reqs with
  | nil =>
    obtain rfl := Host.Outcome.next.inj ((step_no_request hb hp hr).symm.trans hs)
    rfl
  | cons r rs =>
    have answer := faultedBlockRefuses s r rs ps qs hb hp hq hf hr (hop r rs hr)
    obtain rfl := Host.Outcome.next.inj (answer.symm.trans hs)
    rfl

/-! ## Fault entry before any effect -/

/-- A run that begins without a fault ends without one or with TRANSPORT (60_exceptions.md R213). -/
theorem run_fault_code_le {w : List Action} {s : State} (h : s.fault.code = 0) :
    (run w s).fault.code.toNat ≤ 1 := by
  rcases run_fault_cases w s with hf | hf | hf
  · rw [hf, h]; decide
  · rw [hf]; decide
  · rw [hf]; decide

/-- Every course but a failing check ends, from no fault, without a fault or with TRANSPORT. -/
theorem course_fault_cases {i : Instr} {s t : State} (hf : s.fault.code = 0) (hc : Course i s t) :
    (∃ r, t = raise r (startOp i.opsel s)) ∨ t.fault.code.toNat ≤ 1 := by
  cases hc with
  | refused r _ _ ht => exact .inl ⟨r, ht⟩
  | command b eff _ _ ht => subst ht; exact .inr (run_fault_code_le hf)
  | relays mask _ ht => subst ht; exact .inr (run_fault_code_le hf)
  | offsets w0 w1 wt _ ht => subst ht; exact .inr (run_fault_code_le hf)
  | applied c cfg code _ _ ht => subst ht; exact .inr (run_fault_code_le hf)
  | ended v cal calValid ibuf obuf _ _ _ _ _ ht =>
    subst ht
    exact .inr ((congrArg BitVec.toNat hf).trans_le (by decide))
  | reset _ ht => subst ht; exact .inr (Nat.zero_le 1)

/-- Settles O21: RST leaves no fault, and among the courses only a failing check leaves a code above TRANSPORT's. -/
theorem checksPrecedeEveryEffect : Obligations.ChecksPrecedeEveryEffect := by
  intro i s t hf h h2
  rcases course_of_exec h with ⟨ps, -, rfl⟩ | ⟨ps, hp, hc⟩
  · exact absurd (show 2 ≤ 0 from h2) (by decide)
  · rcases course_fault_cases (s := { s with pins := ps }) hf hc with ⟨r, rfl⟩ | h1
    · exact ⟨ps, hp, raise_startOp r i.opsel { s with pins := ps }⟩
    · omega

end Sys2Proof.Machine
end

section
/-! PROOF. The RESET operation and the late completion of an abandoned transfer (spec/70_reset_and_hazards.md R237,
R238). What a block does depends on the events to come only through what a look at RST, or a wait, finds in them; and
neither finds a late completion. -/

namespace Sys2Proof.Machine

/-! ## RESET -/

/-- RESET that no RST abandons is the reset, and then its result (70_reset_and_hazards.md R237). -/
theorem exec_reset_clear {s : State} {ps : List Pin} (h : reading s.pins = .clear ps) :
    exec .reset s = .next (post (.count 0) (resetRegs { s with pins := ps })) := by
  rw [exec, execReset, unlessRst_clear h]

/-- Of the registers that `hasResetValues` names, posting a result writes BUSY only, which it clears. -/
theorem hasResetValues_post {s : State} (v : ResValue) (h : hasResetValues s) : hasResetValues (post v s) := by
  obtain ⟨seq, -, others⟩ := h
  exact ⟨seq, rfl, others⟩

/-- Settles O4: the result is posted over the reset registers and changes none of them. -/
theorem resetOperationResets : Obligations.ResetOperationResets := by
  intro s ps hp
  have values := hasResetValues_post (.count 0) (hasResetValues_resetRegs { s with pins := ps })
  exact ⟨_, exec_reset_clear hp, values, rfl, rfl, rfl, rfl, rfl, rfl⟩

/-! ## The late completion -/

section
variable {s : State} {ps qs : List Pin}

/-- An act that RST may abandon sees of the events what the look at RST finds. -/
theorem unlessRst_congr {α : Type} (f g : State → α) (h : reading ps = reading qs) :
    unlessRst f g { s with pins := ps } = unlessRst f g { s with pins := qs } := by
  simp only [unlessRst, h]

/-- A wait to which some event comes sees of the events what arrives. -/
theorem await_congr (kind : XferKind) (eff : Effect) (w : List Action) (go : State → State)
    (h : arrival ps = arrival qs) (hn : arrival qs ≠ .nothing) :
    await kind eff w go { s with pins := ps } = await kind eff w go { s with pins := qs } := by
  cases hq : arrival qs with
  | nothing => exact absurd hq hn
  | done ok rest =>
    have hp := h.trans hq
    cases ok with
    | true => rw [await_done (s := { s with pins := ps }) hp, await_done (s := { s with pins := qs }) hq]; rfl
    | false => rw [await_fail (s := { s with pins := ps }) hp, await_fail (s := { s with pins := qs }) hq]
  | rst rest =>
    have hp := h.trans hq
    rw [await_rst (s := { s with pins := ps }) hp, await_rst (s := { s with pins := qs }) hq]

/-- An idle block's step sees of the events what the look at RST finds (10_state.md R39). -/
theorem step_idle_congr (hb : s.busy = false) (h : reading ps = reading qs) :
    step { s with pins := ps } = step { s with pins := qs } := by
  have fetched : fetch { s with pins := ps } = fetch { s with pins := qs } := by
    rw [fetch_idle (s := { s with pins := ps }) hb, fetch_idle (s := { s with pins := qs }) hb, unlessRst_congr _ _ h]
  rw [step, step, fetched]

/-- The step of a block that waits for its transfer, and to which some event comes, sees of the events what arrives
(10_state.md R38). -/
theorem step_busy_congr (inv : StateInv s) (hb : s.busy = true) (h : arrival ps = arrival qs)
    (hn : arrival qs ≠ .nothing) : step { s with pins := ps } = step { s with pins := qs } := by
  by_cases hr : ∃ rest, arrival qs = .rst rest
  · obtain ⟨rest, hq⟩ := hr
    rw [step_busy_rst (s := { s with pins := ps }) hb (h.trans hq), step_busy_rst (s := { s with pins := qs }) hb hq]
  · have hq := not_exists.1 hr
    obtain ⟨-, -, -, kind, eff, w, hw⟩ := inv.waiting hb
    rw [step_busy (s := { s with pins := ps }) hb (by rwa [h]), step_busy (s := { s with pins := qs }) hb hq,
      resume_xfer (s := { s with pins := ps }) hw, resume_xfer (s := { s with pins := qs }) hw,
      await_congr kind eff _ _ h hn]

end

/-- Settles O11: a late completion is neither found by a look at RST nor does it arrive at a wait. -/
theorem lateCompletionIgnored : Obligations.LateCompletionIgnored :=
  ⟨fun _ ok ps inv hb hn => step_busy_congr inv hb (arrival_late ok ps) hn,
    fun _ ok ps hb => step_idle_congr hb (reading_late ok ps)⟩

end Sys2Proof.Machine
end
